-- ==== Sys2Proof/Word.lean ====
section
/-! DEFINITION. The word types of the block: a byte, and the 32-bit word of the counters and of the register read port (00_scope.md R8, R9). -/
namespace Sys2Proof

/-- A byte: what one FEED moves into the block, and what one index of the frame buffer holds (20_memory.md R56). -/
abbrev Byte := BitVec 8

/-- `CNT_WIDTH` and `REG_WIDTH` are both 32 bits (00_scope.md R8). Its addition wraps modulo 2^32, as the counters do (10_state.md R30). -/
abbrev Word := BitVec 32

end Sys2Proof
end

