-- ==== Sys2Proof/Config.lean ====
section
/-! DEFINITION. The block's implementation parameters (00_scope.md R8): the ones the spec fixes, the two it leaves OPEN, and the two families of free values. -/
namespace Sys2Proof.Config

/-- `SYNC` (00_scope.md R8). -/
def sync : Byte := 0x55

/-- `HDR_BYTES`: the header bytes that the header CRC covers (00_scope.md R8). -/
def hdrBytes : Nat := 4

/-- `CRC_POLY`, the x^8 term implicit (00_scope.md R8; 40_crc8.md R100). -/
def crcPoly : Byte := 0x07

/-- `CRC_INIT` (00_scope.md R8). -/
def crcInit : Byte := 0x00

/-- `CRC_XOROUT` (00_scope.md R8, decision D13). -/
def crcXorOut : Byte := 0x00

/-- `FBUF_BYTES` = 65535 + 255 + 1 (00_scope.md R8, decision D6). -/
def fbufBytes : Nat := 65791

/-- The five 4BS sub-profiles the source names (44_unpack_profiles.md R219; 91_not_in_source.md N8). -/
inductive A5SubProfile where
  | temperature | humidity | light | occupancy | co2Voc
  deriving DecidableEq, Repr, Inhabited

/-- `sel` of R219: which of the four raw bytes a sub-profile reads. -/
inductive A5Select where
  | db3 | db2 | db1 | db0
  deriving DecidableEq, Repr, Inhabited

/-- One entry (`sel`, `min`, `max`) of `A5_SCALE` (44_unpack_profiles.md R219). -/
structure A5Scale where
  sel : A5Select
  min : Rat
  max : Rat
  deriving DecidableEq, Repr, Inhabited

/-- `A5_SCALE`, an OPEN parameter of the host (00_scope.md R8, decision D22). It has no body: no claim can rest on its entries (log 14). -/
opaque a5Scale : A5SubProfile → A5Scale

/-- `A5_SUB`, an OPEN parameter of the host: the 4BS sub-profile of a telegram, given its packet type, data portion and optional portion (00_scope.md R8, decision D22; log 14). -/
opaque a5Sub : Byte → List Byte → List Byte → A5SubProfile

/-- FREE VALUE. The byte that the n-th RESET transaction leaves in `hbuf[i]`: "`S.hbuf` and `FBUF` become unspecified" (41_frame_assembler.md R150). It has no body (log 5). -/
opaque unspecifiedByte : Nat → Nat → Byte

/-- FREE VALUE. What FBUF holds at an index that nothing has written since power-on or the last RESET, given the number of RESET transactions so far and the index: "Reset value: unspecified at every index" (10_state.md R28, R39), "any value" (93_implementation_defined.md U2). It has no body (log 7). -/
opaque unspecifiedFbuf : Nat → Nat → Byte

end Sys2Proof.Config
end

