-- ==== Sys2Proof/Syntax.lean ====
section
/-! DEFINITION. The instructions of the block: one constructor for each row of spec/opcode_table.json (30_encoding.md R71, R90, R95). -/
namespace Sys2Proof

/-- The telegram record `T` (30_encoding.md R93). `dl` and `ol` are the lengths of its two byte lists ("a list of `dl` bytes", "a list of `ol` bytes"); `Telegram.dl` and `Telegram.ol` give them in their 16 and 8 bits (log 11). -/
structure Telegram where
  /-- `packet_type` -/
  pt : Byte
  /-- the received header CRC byte -/
  hcrc : Byte
  /-- the data portion, `dl` bytes -/
  data : List Byte
  /-- the optional portion, `ol` bytes -/
  opt : List Byte
  /-- the received data CRC byte -/
  dcrc : Byte
  deriving DecidableEq, Repr

/-- `dl` of the telegram record, 16 bits (30_encoding.md R93). -/
def Telegram.dl (t : Telegram) : BitVec 16 := BitVec.ofNat 16 t.data.length

/-- `ol` of the telegram record, 8 bits (30_encoding.md R93). -/
def Telegram.ol (t : Telegram) : Byte := BitVec.ofNat 8 t.opt.length

/-- The eleven rows of the dispatch map (30_encoding.md R90), in its order. -/
inductive Row where
  | rps | oneBs | fourBs | teachIn
  | vld1441 | vld1440 | vld0112 | vld0101 | vld0500
  | unknownD2 | unknownRorg
  deriving DecidableEq, Repr

/-- One constructor for each row of spec/opcode_table.json.
The three port words (30_encoding.md R71) keep their ignored bits as an operand, so that every word has its own term; REGREAD is a request on the register read port (R95); the last eleven are the rows of the dispatch map (R90), and each takes the whole telegram that the row was selected for. -/
inductive Instr where
  /-- RESET, with the ignored bits `in[8:0]` -/
  | reset (ignored : BitVec 9)
  /-- FEED b -/
  | feed (b : Byte)
  /-- IDLE, with the ignored bits `in[7:0]` -/
  | idle (ignored : Byte)
  /-- REGREAD a -/
  | regread (a : Byte)
  /-- row 1, RPS_F6 -/
  | rpsF6 (t : Telegram)
  /-- row 2, 1BS_D5-00-01 -/
  | oneBsD50001 (t : Telegram)
  /-- row 3, 4BS_A5 -/
  | fourBsA5 (t : Telegram)
  /-- row 4, TEACH_IN_D4 -/
  | teachInD4 (t : Telegram)
  /-- row 5, VLD_D2-14-41 -/
  | vldD21441 (t : Telegram)
  /-- row 6, VLD_D2-14-40 -/
  | vldD21440 (t : Telegram)
  /-- row 7, VLD_D2-01-12 -/
  | vldD20112 (t : Telegram)
  /-- row 8, VLD_D2-01-01 -/
  | vldD20101 (t : Telegram)
  /-- row 9, VLD_D2-05-00 -/
  | vldD20500 (t : Telegram)
  /-- row 10, UNKNOWN_D2 -/
  | unknownD2 (t : Telegram)
  /-- row 11, UNKNOWN_RORG -/
  | unknownRorg (t : Telegram)
  deriving DecidableEq, Repr

/-- The instruction that a row of the dispatch map makes of a telegram. -/
def Row.instr : Row → Telegram → Instr
  | .rps, t => .rpsF6 t
  | .oneBs, t => .oneBsD50001 t
  | .fourBs, t => .fourBsA5 t
  | .teachIn, t => .teachInD4 t
  | .vld1441, t => .vldD21441 t
  | .vld1440, t => .vldD21440 t
  | .vld0112, t => .vldD20112 t
  | .vld0101, t => .vldD20101 t
  | .vld0500, t => .vldD20500 t
  | .unknownD2, t => .unknownD2 t
  | .unknownRorg, t => .unknownRorg t

end Sys2Proof
end

