-- ==== Sys2Proof/Machine/DispatchMap.lean ====
section
/-! DEFINITION. The dispatch map (30_encoding.md R88 to R90): the key of a telegram, the eleven rows in their order, and which row is selected or why none is (43_unpack_dispatch.md R180 to R183). -/
namespace Sys2Proof.Machine

/-- `xs[i]`, counting from 0 (00_scope.md R11). Every rule that reads a byte of a data portion reads it under a length rule that makes the index exist (44_unpack_profiles.md, opening; `Laws/Unpack.lean` proves it), so the 0 outside the list is never read by one. -/
def byteAt (xs : List Byte) (i : Nat) : Byte := xs.getD i 0

/-- `xs[i..j)` (00_scope.md R11). -/
def slice (xs : List Byte) (i j : Nat) : List Byte := (xs.take j).drop i

/-- The `match` column of the dispatch map (30_encoding.md R90). -/
def rowPattern : Row → BitVec 24
  | .rps => 0xF60000
  | .oneBs => 0xD50000
  | .fourBs => 0xA50000
  | .teachIn => 0xD40000
  | .vld1441 => 0xD21441
  | .vld1440 => 0xD21440
  | .vld0112 => 0xD20112
  | .vld0101 => 0xD20101
  | .vld0500 => 0xD20500
  | .unknownD2 => 0xD20000
  | .unknownRorg => 0x000000

/-- The `mask` column of the dispatch map (30_encoding.md R90). -/
def rowMask : Row → BitVec 24
  | .rps => 0xFF0000
  | .oneBs => 0xFF0000
  | .fourBs => 0xFF0000
  | .teachIn => 0xFF0000
  | .vld1441 => 0xFFFFFF
  | .vld1440 => 0xFFFFFF
  | .vld0112 => 0xFFFFFF
  | .vld0101 => 0xFFFFFF
  | .vld0500 => 0xFFFFFF
  | .unknownD2 => 0xFF0000
  | .unknownRorg => 0x000000

/-- The length rule column: the lengths `dl` a row admits (30_encoding.md R90; 43_unpack_dispatch.md R185). -/
def rowLengthOk : Row → Nat → Bool
  | .rps, dl => dl == 7
  | .oneBs, dl => dl == 7
  | .fourBs, dl => dl == 10
  | .teachIn, dl => 6 ≤ dl
  | .vld1441, dl => dl == 18
  | .vld1440, dl => dl == 18
  | .vld0112, dl => 11 ≤ dl
  | .vld0101, dl => 9 ≤ dl
  | .vld0500, dl => 9 ≤ dl
  | .unknownD2, dl => 9 ≤ dl
  | .unknownRorg, dl => 1 ≤ dl

/-- The least length a row admits. -/
def rowMinLength : Row → Nat
  | .rps => 7
  | .oneBs => 7
  | .fourBs => 10
  | .teachIn => 6
  | .vld1441 => 18
  | .vld1440 => 18
  | .vld0112 => 11
  | .vld0101 => 9
  | .vld0500 => 9
  | .unknownD2 => 9
  | .unknownRorg => 1

/-- The rows in priority order, first match wins (30_encoding.md R90). -/
def dispatchOrder : List Row :=
  [.rps, .oneBs, .fourBs, .teachIn, .vld1441, .vld1440, .vld0112, .vld0101, .vld0500, .unknownD2, .unknownRorg]

/-- `(K & mask) = match` (30_encoding.md R88). -/
def rowMatches (k : BitVec 24) (r : Row) : Bool := k &&& rowMask r == rowPattern r

/-- The first row that a key matches. Row 11 matches every key, so there always is one (30_encoding.md R90). -/
def firstRow (k : BitVec 24) : Row := (dispatchOrder.find? (rowMatches k)).getD .unknownRorg

/-- The dispatch key `K = {d[0], b1, b2}`: `b1` is `d[1]` if `dl ≥ 2` else 0, `b2` is `d[2]` if `dl ≥ 3` else 0 (30_encoding.md R88). -/
def dispatchKey (d : List Byte) : BitVec 24 :=
  byteAt d 0 ++ (if 2 ≤ d.length then byteAt d 1 else 0x00#8) ++ (if 3 ≤ d.length then byteAt d 2 else 0x00#8)

/-- Why no row of the dispatch map is tried. -/
inductive NoRow where
  /-- `dl` = 0: no RORG byte (43_unpack_dispatch.md R181) -/
  | emptyData
  /-- RORG 0xD2 with `dl` < 9 (43_unpack_dispatch.md R183) -/
  | shortVld
  deriving DecidableEq, Repr

/-- The row that a data portion selects, or why none is tried (43_unpack_dispatch.md R180 to R183). -/
def selectRow (d : List Byte) : Except NoRow Row :=
  if d.length = 0 then .error .emptyData
  else if byteAt d 0 = 0xD2 ∧ d.length < 9 then .error .shortVld
  else .ok (firstRow (dispatchKey d))

end Sys2Proof.Machine
end

