-- ==== Sys2Proof/Machine/State.lean ====
section
/-! DEFINITION. The state of the block as plain data (10_state.md), the records it emits (30_encoding.md R92 to R94), the reasons a step can stop, and the state after reset (10_state.md R39). -/
namespace Sys2Proof.Machine

/-- The synchronizer state `S.fsm` (10_state.md R22). -/
inductive Fsm where
  | seekingSync | readingHeader | validatingHeader | readingData
  deriving DecidableEq, Repr

/-- The header buffer `S.hbuf[0..4]` (10_state.md R24). -/
structure HeaderBuf where
  b0 : Byte
  b1 : Byte
  b2 : Byte
  b3 : Byte
  b4 : Byte
  deriving DecidableEq, Repr

/-- The nine profiles, by the rows 1 to 9 of the dispatch map (30_encoding.md R90). -/
inductive Profile where
  | rps | oneBs | fourBs | teachIn | vld1441 | vld1440 | vld0112 | vld0101 | vld0500
  deriving DecidableEq, Repr

/-- The fields of an RPS reading (44_unpack_profiles.md R210). -/
structure RpsFields where
  action : Byte
  button : BitVec 2
  buttonName : String
  position : BitVec 1
  pressed : Bool
  lowNibble : BitVec 4
  buttonAPressed : Bool
  buttonBPressed : Bool
  buttonCPressed : Bool
  buttonDPressed : Bool
  deriving DecidableEq, Repr

/-- The fields of a 1BS reading (44_unpack_profiles.md R215). -/
structure OneBsFields where
  state : Byte
  contact : BitVec 1
  closed : Bool
  deriving DecidableEq, Repr

/-- The fields of a 4BS reading, raw bytes only (44_unpack_profiles.md R218). -/
structure FourBsFields where
  db3 : Byte
  db2 : Byte
  db1 : Byte
  db0 : Byte
  lrn : BitVec 1
  deriving DecidableEq, Repr

/-- The fields of a D2-14-40 reading: those of D2-14-41 without the magnet (44_unpack_profiles.md R224, R232). Physical values are exact rationals (R242). -/
structure Vld1440Fields where
  mfgId : Byte
  tempRaw : BitVec 10
  humRaw : BitVec 6
  illumRaw : BitVec 16
  accXRaw : Byte
  accYRaw : Byte
  accZRaw : Byte
  temperatureC : Rat
  humidityPercent : Rat
  illuminationLx : Rat
  accXG : Rat
  accYG : Rat
  accZG : Rat
  deriving DecidableEq, Repr

/-- The fields of a D2-14-41 reading (44_unpack_profiles.md R224). -/
structure Vld1441Fields where
  sensors : Vld1440Fields
  magnet : BitVec 1
  magnetOpen : Bool
  deriving DecidableEq, Repr

/-- The fields of a D2-01-12 reading (44_unpack_profiles.md R234). -/
structure Vld0112Fields where
  mfgId : Byte
  tempRaw : BitVec 10
  humRaw : BitVec 6
  temperatureC : Rat
  humidityPercent : Rat
  deriving DecidableEq, Repr

/-- The fields of a D2-01-01 or D2-05-00 reading: the profile bytes raw (44_unpack_profiles.md R236, R238). -/
structure VldRawFields where
  mfgId : Byte
  raw : List Byte
  deriving DecidableEq, Repr

/-- The profile-specific record of a reading (30_encoding.md R94). -/
inductive Fields where
  | rps (f : RpsFields)
  | oneBs (f : OneBsFields)
  | fourBs (f : FourBsFields)
  | teachIn (raw : List Byte)
  | vld1441 (f : Vld1441Fields)
  | vld1440 (f : Vld1440Fields)
  | vld0112 (f : Vld0112Fields)
  | vld0101 (f : VldRawFields)
  | vld0500 (f : VldRawFields)
  deriving DecidableEq, Repr

/-- The reading record `R` (30_encoding.md R94). -/
structure Reading where
  profile : Profile
  tag : String
  rorg : Byte
  senderId : BitVec 32
  status : Byte
  fields : Fields
  deriving DecidableEq, Repr

/-- The events of the output port and what each carries (30_encoding.md R92). -/
inductive Event where
  /-- code 0, `EV_DECODED` -/
  | decoded (t : Telegram) (r : Reading)
  /-- code 2, `EV_HDR_CRC_ERR`: the 4 header bytes, the received and the computed header CRC -/
  | hdrCrcErr (h0 h1 h2 h3 rx computed : Byte)
  /-- code 3, `EV_DATA_CRC_ERR`: the candidate record and the computed data CRC -/
  | dataCrcErr (t : Telegram) (computed : Byte)
  /-- code 4, `EV_LEN_MISMATCH` -/
  | lenMismatch (t : Telegram)
  /-- code 5, `EV_UNKNOWN`: RORG, FUNC and TYPE where present, the raw data portion -/
  | unknown (t : Telegram) (rorg : Byte) (func type : Option Byte) (raw : List Byte)
  /-- code 6, `EV_DECODE_ERR` -/
  | decodeErr (t : Telegram) (p : Profile)
  deriving DecidableEq, Repr

/-- The outcomes that have a cause code (60_exceptions.md R260). -/
inductive Cause where
  | decoded
  | frameSyncError
  | headerCrcError
  | dataCrcError
  | lengthMismatchError
  | unknownProfileError
  | decodeValueError
  /-- reserved in the numbering; the block never raises it (60_exceptions.md R264) -/
  | sourceUnavailable
  deriving DecidableEq, Repr

/-- The nine counters (10_state.md R30). -/
inductive Counter where
  | syncDiscard | hdrCrc | dataCrc | valid | lenMismatch | unknown | decodeErr | decoded | error
  deriving DecidableEq, Repr

/-- What the host can ask of the block: a word on the input port (30_encoding.md R70), or a read on the register read port (R95). -/
inductive Request where
  | port (w : BitVec 10)
  | read (a : Byte)
  deriving DecidableEq, Repr

/-- The state of the block, field by field as 10_state.md names it, then its two output ports, then the model's own two fields. -/
structure State where
  /-- `S.fsm` (R22) -/
  fsm : Fsm
  /-- `S.hcnt` (R23) -/
  hcnt : BitVec 3
  /-- `S.hbuf` (R24) -/
  hbuf : HeaderBuf
  /-- `S.dl` (R25) -/
  dl : BitVec 16
  /-- `S.ol` (R25) -/
  ol : Byte
  /-- `S.pt` (R25) -/
  pt : Byte
  /-- `S.hcrc` (R25) -/
  hcrc : Byte
  /-- `S.total` (R25) -/
  total : BitVec 17
  /-- `S.dcnt` (R26) -/
  dcnt : BitVec 17
  /-- `S.dacc` (R27) -/
  dacc : Byte
  /-- `FBUF` (R28): the (index, byte) pairs written since power-on or the last RESET, indexes strictly rising; every other index reads as a free value (log 7) -/
  fbuf : List Host.Cell
  /-- `CNT_SYNC_DISCARD` (R30) -/
  cntSyncDiscard : Word
  /-- `CNT_HDR_CRC` (R30) -/
  cntHdrCrc : Word
  /-- `CNT_DATA_CRC` (R30) -/
  cntDataCrc : Word
  /-- `CNT_VALID` (R30) -/
  cntValid : Word
  /-- `CNT_LEN_MISMATCH` (R30) -/
  cntLenMismatch : Word
  /-- `CNT_UNKNOWN` (R30) -/
  cntUnknown : Word
  /-- `CNT_DECODE_ERR` (R30) -/
  cntDecodeErr : Word
  /-- `CNT_DECODED` (R30) -/
  cntDecoded : Word
  /-- `CNT_ERROR` (R30) -/
  cntError : Word
  /-- the output port: the events of the last port word's step (70_reset_and_hazards.md R300; log 2) -/
  out : List Event
  /-- the register read port's answer, if a read was answered since the last port word (10_state.md R36; log 3) -/
  readData : Option Word
  /-- the model's own: what the host has offered and the block has not served yet (log 1) -/
  requests : List Request
  /-- the model's own: how many RESET transactions have been; it numbers the free values of `hbuf` and FBUF (log 5, log 6, log 7) -/
  freeCount : Nat
  deriving DecidableEq, Repr

/-- Why a step stops. The block itself never stops (41_frame_assembler.md R145), so each of these marks a state that no run from reset reaches and that the spec gives no rule for. Every one is safe: the model stops where the spec says nothing (log 12). -/
inductive Fault where
  /-- Raised by FEED in a state that holds VALIDATING_HEADER between steps, which 10_state.md R22 excludes. Safe. -/
  | validatingBetweenSteps
  /-- Raised by FEED in READING_HEADER with `hcnt` ≥ 5: there is no `hbuf[hcnt]` (10_state.md R23, R24). Safe. -/
  | headerIndex (i : Nat)
  /-- Raised by a header that completes inside a replay, which 41_frame_assembler.md R130 excludes. Safe. -/
  | nestedReplay
  /-- Raised by an access to an FBUF index above 65790, which does not exist (20_memory.md R50). Safe. -/
  | fbufIndex (i : Nat)
  deriving DecidableEq, Repr

/-- Why an instruction has no meaning. -/
inductive Refusal where
  /-- Raised by an arm of exec that has no meaning yet; there is none. Safe. -/
  | notModelled (mnemonic : String)
  deriving DecidableEq, Repr

/-- The state after power-on (10_state.md R39; 70_reset_and_hazards.md R290, R291).
DESIGN CHOICE (log 4): `hbuf`, unspecified in the spec, is five zero bytes. FBUF, unspecified in the spec at every index, lists nothing: every index reads as a free value (log 7). `requests` and `freeCount` are the model's own (log 1, log 6). -/
def State.reset : State where
  fsm := .seekingSync
  hcnt := 0
  hbuf := ⟨0, 0, 0, 0, 0⟩
  dl := 0
  ol := 0
  pt := 0
  hcrc := 0
  total := 0
  dcnt := 0
  dacc := 0x00
  fbuf := []
  cntSyncDiscard := 0
  cntHdrCrc := 0
  cntDataCrc := 0
  cntValid := 0
  cntLenMismatch := 0
  cntUnknown := 0
  cntDecodeErr := 0
  cntDecoded := 0
  cntError := 0
  out := []
  readData := none
  requests := []
  freeCount := 0

/-- What a meaning answers. -/
abbrev Result := Host.Outcome State Fault Refusal

end Sys2Proof.Machine
end

