-- ==== Sys2Proof/Machine/Ops.lean ====
section
/-! DEFINITION. The shared operations: sequencing, counters and events, `raise` (the block's only exception mechanism, 60_exceptions.md R262; there is no return from one, R271), the header buffer, the frame buffer, and the output port's lifetime. -/
namespace Sys2Proof.Machine

/-- One operation after another; a stop ends the sequence. -/
def andThen (r : Result) (f : State → Result) : Result :=
  match r with
  | .next s => f s
  | .fault e => .fault e
  | .refused e => .refused e

/-! ### Counters, events and raise -/

/-- `S.C` for a counter C (10_state.md R30). -/
def counter (c : Counter) (s : State) : Word :=
  match c with
  | .syncDiscard => s.cntSyncDiscard
  | .hdrCrc => s.cntHdrCrc
  | .dataCrc => s.cntDataCrc
  | .valid => s.cntValid
  | .lenMismatch => s.cntLenMismatch
  | .unknown => s.cntUnknown
  | .decodeErr => s.cntDecodeErr
  | .decoded => s.cntDecoded
  | .error => s.cntError

/-- `inc(C)`: `S.C <- (S.C + 1) mod 2^32` (00_scope.md R12). -/
def inc (c : Counter) (s : State) : State :=
  match c with
  | .syncDiscard => { s with cntSyncDiscard := s.cntSyncDiscard + 1 }
  | .hdrCrc => { s with cntHdrCrc := s.cntHdrCrc + 1 }
  | .dataCrc => { s with cntDataCrc := s.cntDataCrc + 1 }
  | .valid => { s with cntValid := s.cntValid + 1 }
  | .lenMismatch => { s with cntLenMismatch := s.cntLenMismatch + 1 }
  | .unknown => { s with cntUnknown := s.cntUnknown + 1 }
  | .decodeErr => { s with cntDecodeErr := s.cntDecodeErr + 1 }
  | .decoded => { s with cntDecoded := s.cntDecoded + 1 }
  | .error => { s with cntError := s.cntError + 1 }

/-- `inc` of each counter of a list, in order. -/
def incAll (cs : List Counter) (s : State) : State := cs.foldl (fun s c => inc c s) s

/-- `emit E`: append the event to the step's output list (00_scope.md R14). -/
def emit (e : Event) (s : State) : State := { s with out := s.out ++ [e] }

/-- The counters that a row of 60_exceptions.md R260 names. -/
def causeCounters : Cause → List Counter
  | .decoded => [.valid, .decoded]
  | .frameSyncError => [.syncDiscard]
  | .headerCrcError => [.hdrCrc, .error]
  | .dataCrcError => [.dataCrc, .error]
  | .lengthMismatchError => [.valid, .lenMismatch, .error]
  | .unknownProfileError => [.valid, .unknown]
  | .decodeValueError => [.valid, .decodeErr, .error]
  | .sourceUnavailable => []

/-- The counters that `raise` increments: those of the row, apart from `CNT_VALID`, "which rule R163 has already incremented" (60_exceptions.md R262). -/
def raiseCounters (c : Cause) : List Counter := (causeCounters c).filter (· ≠ .valid)

/-- `raise X(info)`: increment the row's counters, then emit the row's event if it has one. It saves nothing, changes no mode, redirects nothing and ends nothing (60_exceptions.md R262, R270). -/
def raise (c : Cause) (e : Option Event) (s : State) : State :=
  match e with
  | some e => emit e (incAll (raiseCounters c) s)
  | none => incAll (raiseCounters c) s

/-! ### The header buffer -/

/-- `S.hbuf[i]` with byte i set, or nothing where there is no byte i (10_state.md R24). -/
def setHeaderByte (h : HeaderBuf) (i : Nat) (b : Byte) : Option HeaderBuf :=
  match i with
  | 0 => some { h with b0 := b }
  | 1 => some { h with b1 := b }
  | 2 => some { h with b2 := b }
  | 3 => some { h with b3 := b }
  | 4 => some { h with b4 := b }
  | _ => none

/-- `S.hbuf[S.hcnt] <- b; S.hcnt <- S.hcnt + 1` (41_frame_assembler.md R123). -/
def storeHeaderByte (b : Byte) (s : State) : Result :=
  match setHeaderByte s.hbuf s.hcnt.toNat b with
  | some h => .next { s with hbuf := h, hcnt := s.hcnt + 1 }
  | none => .fault (.headerIndex s.hcnt.toNat)

/-! ### The frame buffer -/

/-- What an index that the list does not hold reads as, after `epoch` RESET transactions: a free value (10_state.md R28, "unspecified at every index"; 93_implementation_defined.md U2, "any value"; log 7). -/
def unlistedByte (epoch i : Nat) : Byte := Config.unspecifiedFbuf epoch i

/-- The byte that the list holds at an index, if something has written it. -/
def memGet : List Host.Cell → Nat → Option Byte
  | [], _ => none
  | (a, c) :: m, i => if i = a then some c else memGet m i

/-- The frame buffer with one byte written, indexes kept strictly rising. -/
def memSet : List Host.Cell → Nat → Byte → List Host.Cell
  | [], i, b => [(i, b)]
  | (a, c) :: m, i, b =>
    if i < a then (i, b) :: (a, c) :: m
    else if i = a then (i, b) :: m
    else (a, c) :: memSet m i b

/-- The canonical form: indexes strictly rising and inside the buffer, one entry for each index written since power-on or the last RESET. What an unlisted index reads as is a free value, which no entry can be compared with (log 7). -/
abbrev Memory.wf (m : List Host.Cell) : Prop :=
  m.Pairwise (fun x y => x.1 < y.1) ∧ ∀ x ∈ m, x.1 < Config.fbufBytes

/-- `MemWrite(i, 1, b)` (00_scope.md R13; 20_memory.md R50). -/
def storeByte (i : Nat) (b : Byte) (s : State) : Result :=
  if i < Config.fbufBytes then .next { s with fbuf := memSet s.fbuf i b }
  else .fault (.fbufIndex i)

/-- `FBUF[i]`: the byte written there, or the free value of an index that nothing has written. -/
def fbufByte (epoch : Nat) (m : List Host.Cell) (i : Nat) : Byte := (memGet m i).getD (unlistedByte epoch i)

/-- `MemRead(i, 1)` (00_scope.md R13; 20_memory.md R50). -/
def loadByte (epoch : Nat) (m : List Host.Cell) (i : Nat) : Except Fault Byte :=
  if i < Config.fbufBytes then .ok (fbufByte epoch m i) else .error (.fbufIndex i)

/-- `[MemRead(i, 1) for i in start .. start + n)`. -/
def loadBytes (epoch : Nat) (m : List Host.Cell) : Nat → Nat → Except Fault (List Byte)
  | _, 0 => .ok []
  | start, n + 1 =>
    match loadByte epoch m start with
    | .error e => .error e
    | .ok b =>
      match loadBytes epoch m (start + 1) n with
      | .error e => .error e
      | .ok bs => .ok (b :: bs)

/-- A byte list written from an index on, one `MemWrite` after another. -/
def memSetList (m : List Host.Cell) : Nat → List Byte → List Host.Cell
  | _, [] => m
  | i, b :: bs => memSetList (memSet m i b) (i + 1) bs

/-! ### The output ports -/

/-- A port word's step begins: the event of the step before is gone, "a step's event is on the output port only for that step" (70_reset_and_hazards.md R300), and so is the last register answer (log 2, log 3). -/
def beginTransaction (s : State) : State := { s with out := [], readData := none }

end Sys2Proof.Machine
end

