-- ==== Sys2Proof/Machine/Flags.lean ====
section
/-! DEFINITION. What the host reads: FRAME_PENDING, the STATUS word, the register map (10_state.md R32 to R36), and the numbers of profiles, causes and events (30_encoding.md R90, R92; 60_exceptions.md R260). -/
namespace Sys2Proof.Machine

/-- The 2-bit code of a synchronizer state (10_state.md R22). -/
def fsmCode : Fsm → BitVec 2
  | .seekingSync => 0
  | .readingHeader => 1
  | .validatingHeader => 2
  | .readingData => 3

/-- `FRAME_PENDING` = 1 exactly when `S.fsm` ≠ SEEKING_SYNC (10_state.md R32). -/
def framePending (s : State) : BitVec 1 := if s.fsm = .seekingSync then 0 else 1

/-- STATUS = `zext_32({FRAME_PENDING, S.hcnt[2:0], S.fsm[1:0]})` (10_state.md R35). -/
def statusWord (s : State) : Word := (framePending s ++ s.hcnt ++ fsmCode s.fsm).setWidth 32

/-- `RegRead(a)`: the register map (10_state.md R34, R36). Reserved addresses read 0. -/
def regRead (a : Byte) (s : State) : Word :=
  match a.toNat with
  | 0x00 => statusWord s
  | 0x01 => s.dcnt.setWidth 32
  | 0x02 => s.total.setWidth 32
  | 0x03 => s.pt ++ s.ol ++ s.dl
  | 0x04 => s.cntSyncDiscard
  | 0x05 => s.cntHdrCrc
  | 0x06 => s.cntDataCrc
  | 0x07 => s.cntValid
  | 0x08 => s.cntLenMismatch
  | 0x09 => s.cntUnknown
  | 0x0A => s.cntDecodeErr
  | 0x0B => s.cntDecoded
  | 0x0C => s.cntError
  | _ => 0

/-- The profile id (30_encoding.md R90). -/
def profileId : Profile → Nat
  | .rps => 1
  | .oneBs => 2
  | .fourBs => 3
  | .teachIn => 4
  | .vld1441 => 5
  | .vld1440 => 6
  | .vld0112 => 7
  | .vld0101 => 8
  | .vld0500 => 9

/-- The profile tag (30_encoding.md R90, decision D38). -/
def profileTag : Profile → String
  | .rps => "F6"
  | .oneBs => "D5-00-01"
  | .fourBs => "A5"
  | .teachIn => "D4"
  | .vld1441 => "D2-14-41"
  | .vld1440 => "D2-14-40"
  | .vld0112 => "D2-01-12"
  | .vld0101 => "D2-01-01"
  | .vld0500 => "D2-05-00"

/-- The cause code (60_exceptions.md R260). -/
def causeCode : Cause → Nat
  | .decoded => 0
  | .frameSyncError => 1
  | .headerCrcError => 2
  | .dataCrcError => 3
  | .lengthMismatchError => 4
  | .unknownProfileError => 5
  | .decodeValueError => 6
  | .sourceUnavailable => 7

/-- The cause an event reports (30_encoding.md R92). -/
def eventCause : Event → Cause
  | .decoded _ _ => .decoded
  | .hdrCrcErr _ _ _ _ _ _ => .headerCrcError
  | .dataCrcErr _ _ => .dataCrcError
  | .lenMismatch _ => .lengthMismatchError
  | .unknown _ _ _ _ _ => .unknownProfileError
  | .decodeErr _ _ => .decodeValueError

/-- The outcome code an event carries (30_encoding.md R92). -/
def eventCode (e : Event) : Nat := causeCode (eventCause e)

end Sys2Proof.Machine
end

