-- ==== Sys2Proof/Machine/Operands.lean ====
section
/-! DEFINITION. The fields of a data portion: "small, named extraction helpers per field (mask+shift+linear-scale)" (44_unpack_profiles.md, opening and R243), each a raw integer with its width and, where the spec gives a physical meaning, an exact rational (R242). -/
namespace Sys2Proof.Machine

/-! ### Common fields (30_encoding.md R78; 43_unpack_dispatch.md R187) -/

/-- `sender_id = {d[dl-5], d[dl-4], d[dl-3], d[dl-2]}`, most significant byte first. -/
def senderId (d : List Byte) : BitVec 32 :=
  byteAt d (d.length - 5) ++ byteAt d (d.length - 4) ++ byteAt d (d.length - 3) ++ byteAt d (d.length - 2)

/-- `status = d[dl-1]`, not interpreted. -/
def statusByte (d : List Byte) : Byte := byteAt d (d.length - 1)

/-! ### RPS action byte (44_unpack_profiles.md R210) -/

/-- `button <- a[7:6]` -/
def rpsButton (a : Byte) : BitVec 2 := a.extractLsb' 6 2

/-- `position <- a[5]` -/
def rpsPosition (a : Byte) : BitVec 1 := a.extractLsb' 5 1

/-- `pressed <- a[4]`, the energy bow: 1 is pressed (R211) -/
def rpsPressed (a : Byte) : Bool := a.getLsbD 4

/-- `low_nibble <- a[3:0]` -/
def rpsLowNibble (a : Byte) : BitVec 4 := a.extractLsb' 0 4

/-- `button_name <- ["button_a", "button_b", "button_c", "button_d"][button]` -/
def rpsButtonName (button : BitVec 2) : String :=
  if button = 0 then "button_a" else if button = 1 then "button_b" else if button = 2 then "button_c" else "button_d"

/-! ### Linear maps of the D2 sensor profiles (44_unpack_profiles.md R225 to R228) -/

/-- `TEMP(r)` = −40 + r·100/1023 °C (R225). -/
def temp (r : BitVec 10) : Rat := -40 + (r.toNat : Rat) * 100 / 1023

/-- `HUM(r)` = r·100/63 % (R226). -/
def hum (r : BitVec 6) : Rat := (r.toNat : Rat) * 100 / 63

/-- `ILLUM(r)` = r·100000/65535 lx (R227). -/
def illum (r : BitVec 16) : Rat := (r.toNat : Rat) * 100000 / 65535

/-- `ACC(r)` = −5/2 + r·5/255 g (R228). -/
def acc (r : Byte) : Rat := -5 / 2 + (r.toNat : Rat) * 5 / 255

/-- `temp_raw`: eight high bits from the first byte, two low bits from bits 7:6 of the second (R224). -/
def tempRaw (x0 x1 : Byte) : BitVec 10 := x0 ++ x1.extractLsb' 6 2

/-- `hum_raw`: bits 5:0 of the second byte (R224). -/
def humRaw (x1 : Byte) : BitVec 6 := x1.extractLsb' 0 6

/-- `illum_raw`: high byte first (R224). -/
def illumRaw (x2 x3 : Byte) : BitVec 16 := x2 ++ x3

/-! ### 4BS physical value (44_unpack_profiles.md R219) -/

/-- The raw byte that `sel` names. -/
def a5Raw (sel : Config.A5Select) (f : FourBsFields) : Byte :=
  match sel with
  | .db3 => f.db3
  | .db2 => f.db2
  | .db1 => f.db1
  | .db0 => f.db0

/-- `min + raw·(max − min)/255`, for one entry of `A5_SCALE`. -/
def a5Value (sc : Config.A5Scale) (f : FourBsFields) : Rat :=
  sc.min + ((a5Raw sc.sel f).toNat : Rat) * (sc.max - sc.min) / 255

/-- The physical value a host makes of a 4BS telegram's raw bytes with the OPEN parameters `A5_SCALE` and `A5_SUB`; the block itself outputs only the raw bytes (R219; log 14). -/
def a5Physical (t : Telegram) (f : FourBsFields) : Rat :=
  a5Value (Config.a5Scale (Config.a5Sub t.pt t.data t.opt)) f

end Sys2Proof.Machine
end

