-- ==== Sys2Proof/Machine/Profiles.lean ====
section
/-! DEFINITION. The rows of the dispatch map as instructions (30_encoding.md R90): the nine unpack functions (44_unpack_profiles.md), the outcomes DECODED, LENGTH_MISMATCH, UNKNOWN_PROFILE and DECODE_ERROR (43_unpack_dispatch.md R184 to R190), and one meaning for each row. -/
namespace Sys2Proof.Machine

/-! ### Outcomes -/

/-- LengthMismatchError: the telegram is counted, reported and discarded (43_unpack_dispatch.md R184). -/
def lengthMismatch (t : Telegram) (s : State) : State :=
  raise .lengthMismatchError (some (.lenMismatch t)) s

/-- UnknownProfileError: `func` and `type` are present when the RORG is 0xD2 (43_unpack_dispatch.md R186). -/
def unknownProfile (t : Telegram) (s : State) : State :=
  let rorg := byteAt t.data 0
  let func := if rorg = 0xD2 then some (byteAt t.data 1) else none
  let type := if rorg = 0xD2 then some (byteAt t.data 2) else none
  raise .unknownProfileError (some (.unknown t rorg func type t.data)) s

/-- The reading record of a decoded data portion (43_unpack_dispatch.md R180, R187). -/
def reading (p : Profile) (d : List Byte) (f : Fields) : Reading where
  profile := p
  tag := profileTag p
  rorg := byteAt d 0
  senderId := senderId d
  status := statusByte d
  fields := f

/-- What an unpack function's answer leads to: DECODED for a complete reading (43_unpack_dispatch.md R188), DecodeValueError for nothing (R189; no unpack function of this spec answers nothing, "A model keeps the path"). -/
def finishProfile (p : Profile) (t : Telegram) (r : Option Fields) (s : State) : State :=
  match r with
  | some f => emit (.decoded t (reading p t.data f)) (inc .decoded s)
  | none => raise .decodeValueError (some (.decodeErr t p)) s

/-- A row's length rule comes before its unpacking; a telegram that fails it is not unpacked (43_unpack_dispatch.md R185). -/
def underLengthRule (r : Row) (t : Telegram) (s s' : State) : Result :=
  if rowLengthOk r t.data.length then .next s' else .next (lengthMismatch t s)

/-! ### Unpack functions -/

/-- `UNPACK[RPS](d)` (44_unpack_profiles.md R210). -/
def unpackRps (d : List Byte) : Option Fields :=
  let a := byteAt d 1
  let button := rpsButton a
  let pressed := rpsPressed a
  some (.rps {
    action := a
    button := button
    buttonName := rpsButtonName button
    position := rpsPosition a
    pressed := pressed
    lowNibble := rpsLowNibble a
    buttonAPressed := pressed && button == 0
    buttonBPressed := pressed && button == 1
    buttonCPressed := pressed && button == 2
    buttonDPressed := pressed && button == 3 })

/-- `UNPACK[1BS](d)` (44_unpack_profiles.md R215). -/
def unpackOneBs (d : List Byte) : Option Fields :=
  let s := byteAt d 1
  let contact := s.extractLsb' 0 1
  some (.oneBs { state := s, contact := contact, closed := contact == 1 })

/-- `UNPACK[4BS](d)` (44_unpack_profiles.md R218). -/
def unpackFourBs (d : List Byte) : Option Fields :=
  let db0 := byteAt d 4
  some (.fourBs { db3 := byteAt d 1, db2 := byteAt d 2, db1 := byteAt d 3, db0 := db0, lrn := db0.extractLsb' 3 1 })

/-- The part that `UNPACK[D2-14-41]` and `UNPACK[D2-14-40]` share (44_unpack_profiles.md R224, R232); `x[k]` is `d[4 + k]`. -/
def unpackSensors (d : List Byte) : Vld1440Fields :=
  let t := tempRaw (byteAt d 4) (byteAt d 5)
  let h := humRaw (byteAt d 5)
  let i := illumRaw (byteAt d 6) (byteAt d 7)
  { mfgId := byteAt d 3
    tempRaw := t
    humRaw := h
    illumRaw := i
    accXRaw := byteAt d 8
    accYRaw := byteAt d 9
    accZRaw := byteAt d 10
    temperatureC := temp t
    humidityPercent := hum h
    illuminationLx := illum i
    accXG := acc (byteAt d 8)
    accYG := acc (byteAt d 9)
    accZG := acc (byteAt d 10) }

/-- `UNPACK[D2-14-41](d)` (44_unpack_profiles.md R224, R229). -/
def unpackVld1441 (d : List Byte) : Option Fields :=
  let magnet := (byteAt d 12).extractLsb' 0 1
  some (.vld1441 { sensors := unpackSensors d, magnet := magnet, magnetOpen := magnet == 1 })

/-- `UNPACK[D2-14-40](d)` (44_unpack_profiles.md R232). -/
def unpackVld1440 (d : List Byte) : Option Fields := some (.vld1440 (unpackSensors d))

/-- `UNPACK[D2-01-12](d)` (44_unpack_profiles.md R234). -/
def unpackVld0112 (d : List Byte) : Option Fields :=
  let t := tempRaw (byteAt d 4) (byteAt d 5)
  let h := humRaw (byteAt d 5)
  some (.vld0112 { mfgId := byteAt d 3, tempRaw := t, humRaw := h, temperatureC := temp t, humidityPercent := hum h })

/-- `UNPACK[D2-01-01](d)`: the profile bytes raw (44_unpack_profiles.md R236). -/
def unpackVld0101 (d : List Byte) : Option Fields :=
  some (.vld0101 { mfgId := byteAt d 3, raw := slice d 4 (d.length - 5) })

/-- `UNPACK[D2-05-00](d)`: the profile bytes raw (44_unpack_profiles.md R238). -/
def unpackVld0500 (d : List Byte) : Option Fields :=
  some (.vld0500 { mfgId := byteAt d 3, raw := slice d 4 (d.length - 5) })

/-- `UNPACK[TEACH_IN](d)`: the announcement bytes raw (44_unpack_profiles.md R240). -/
def unpackTeachIn (d : List Byte) : Option Fields := some (.teachIn (slice d 1 (d.length - 5)))

/-! ### The meanings of the rows -/

/-- Row 1, RPS_F6 (30_encoding.md R90; 44_unpack_profiles.md R210). -/
def execRpsF6 (t : Telegram) (s : State) : Result :=
  underLengthRule .rps t s (finishProfile .rps t (unpackRps t.data) s)

/-- Row 2, 1BS_D5-00-01 (30_encoding.md R90; 44_unpack_profiles.md R215). -/
def execOneBsD50001 (t : Telegram) (s : State) : Result :=
  underLengthRule .oneBs t s (finishProfile .oneBs t (unpackOneBs t.data) s)

/-- Row 3, 4BS_A5 (30_encoding.md R90; 44_unpack_profiles.md R218). -/
def execFourBsA5 (t : Telegram) (s : State) : Result :=
  underLengthRule .fourBs t s (finishProfile .fourBs t (unpackFourBs t.data) s)

/-- Row 4, TEACH_IN_D4 (30_encoding.md R90; 44_unpack_profiles.md R240). -/
def execTeachInD4 (t : Telegram) (s : State) : Result :=
  underLengthRule .teachIn t s (finishProfile .teachIn t (unpackTeachIn t.data) s)

/-- Row 5, VLD_D2-14-41 (30_encoding.md R90; 44_unpack_profiles.md R224). -/
def execVldD21441 (t : Telegram) (s : State) : Result :=
  underLengthRule .vld1441 t s (finishProfile .vld1441 t (unpackVld1441 t.data) s)

/-- Row 6, VLD_D2-14-40 (30_encoding.md R90; 44_unpack_profiles.md R232). -/
def execVldD21440 (t : Telegram) (s : State) : Result :=
  underLengthRule .vld1440 t s (finishProfile .vld1440 t (unpackVld1440 t.data) s)

/-- Row 7, VLD_D2-01-12 (30_encoding.md R90; 44_unpack_profiles.md R234). -/
def execVldD20112 (t : Telegram) (s : State) : Result :=
  underLengthRule .vld0112 t s (finishProfile .vld0112 t (unpackVld0112 t.data) s)

/-- Row 8, VLD_D2-01-01 (30_encoding.md R90; 44_unpack_profiles.md R236). -/
def execVldD20101 (t : Telegram) (s : State) : Result :=
  underLengthRule .vld0101 t s (finishProfile .vld0101 t (unpackVld0101 t.data) s)

/-- Row 9, VLD_D2-05-00 (30_encoding.md R90; 44_unpack_profiles.md R238). -/
def execVldD20500 (t : Telegram) (s : State) : Result :=
  underLengthRule .vld0500 t s (finishProfile .vld0500 t (unpackVld0500 t.data) s)

/-- Row 10, UNKNOWN_D2 (30_encoding.md R90; 43_unpack_dispatch.md R183, R186). -/
def execUnknownD2 (t : Telegram) (s : State) : Result :=
  underLengthRule .unknownD2 t s (unknownProfile t s)

/-- Row 11, UNKNOWN_RORG (30_encoding.md R90; 43_unpack_dispatch.md R182, R186). -/
def execUnknownRorg (t : Telegram) (s : State) : Result :=
  underLengthRule .unknownRorg t s (unknownProfile t s)

/-- `DISPATCH(T)` (43_unpack_dispatch.md R180): no row is tried for an empty data portion or a short D2 telegram, which are length mismatches (R181, R183); otherwise the selected row's meaning runs. -/
def dispatchTelegram (t : Telegram) (s : State) : Result :=
  match selectRow t.data with
  | .error _ => .next (lengthMismatch t s)
  | .ok .rps => execRpsF6 t s
  | .ok .oneBs => execOneBsD50001 t s
  | .ok .fourBs => execFourBsA5 t s
  | .ok .teachIn => execTeachInD4 t s
  | .ok .vld1441 => execVldD21441 t s
  | .ok .vld1440 => execVldD21440 t s
  | .ok .vld0112 => execVldD20112 t s
  | .ok .vld0101 => execVldD20101 t s
  | .ok .vld0500 => execVldD20500 t s
  | .ok .unknownD2 => execUnknownD2 t s
  | .ok .unknownRorg => execUnknownRorg t s

end Sys2Proof.Machine
end

