-- ==== Sys2Proof/Machine/Assembler.lean ====
section
/-! DEFINITION. FEED: the frame synchronizer, the frame assembler and the validator (41_frame_assembler.md R120 to R145; 42_validator.md R160 to R168). -/
namespace Sys2Proof.Machine

/-! ### The validator -/

/-- The candidate record: `T.data` is `FBUF[0 .. dl)`, `T.opt` is `FBUF[dl .. dl+ol)`, `T.dcrc` is `FBUF[dl+ol]` (42_validator.md R160, R161). -/
def candidate (s : State) : Except Fault Telegram :=
  let n := s.dl.toNat + s.ol.toNat
  match loadBytes s.freeCount s.fbuf 0 s.dl.toNat with
  | .error e => .error e
  | .ok data =>
    match loadBytes s.freeCount s.fbuf s.dl.toNat s.ol.toNat with
    | .error e => .error e
    | .ok opt =>
      match loadByte s.freeCount s.fbuf n with
      | .error e => .error e
      | .ok dcrc => .ok { pt := s.pt, hcrc := s.hcrc, data := data, opt := opt, dcrc := dcrc }

/-- `COMPLETE_FRAME()` (42_validator.md R160): a data CRC mismatch is DataCrcError (R162), a match counts a valid telegram and dispatches it (R163). -/
def completeFrame (s : State) : Result :=
  match candidate s with
  | .error e => .fault e
  | .ok t =>
    if s.dacc ≠ t.dcrc then .next (raise .dataCrcError (some (.dataCrcErr t s.dacc)) s)
    else dispatchTelegram t (inc .valid s)

/-! ### READING_DATA -/

/-- FEED in READING_DATA (41_frame_assembler.md R120, R140, R141): the byte is stored, a data or optional byte also enters the running CRC, and the last byte completes the frame. -/
def consumeData (b : Byte) (s : State) : Result :=
  andThen (storeByte s.dcnt.toNat b s) fun s =>
    let s := { s with
      dacc := if s.dcnt.toNat + 1 < s.total.toNat then crc8Update s.dacc b else s.dacc
      dcnt := s.dcnt + 1 }
    if s.dcnt = s.total then completeFrame { s with fsm := .seekingSync } else .next s

/-! ### READING_HEADER -/

/-- The computed header CRC, `CRC8([hbuf[0], hbuf[1], hbuf[2], hbuf[3]])` (41_frame_assembler.md R125). -/
def headerCalc (h : HeaderBuf) : Byte := crc8 [h.b0, h.b1, h.b2, h.b3]

/-- `S.total <- S.dl + S.ol + 1` in 17 bits (10_state.md R25). -/
def totalLength (dl : BitVec 16) (ol : Byte) : BitVec 17 := dl.setWidth 17 + ol.setWidth 17 + 1

/-- Header match: latch the header and read the payload (41_frame_assembler.md R126). -/
def latchHeader (s : State) : State :=
  let dl := s.hbuf.b0 ++ s.hbuf.b1
  { s with
    dl := dl
    ol := s.hbuf.b2
    pt := s.hbuf.b3
    hcrc := s.hbuf.b4
    total := totalLength dl s.hbuf.b2
    dcnt := 0
    dacc := Config.crcInit
    hcnt := 0
    fsm := .readingData }

/-- HeaderCrcError, steps 1 and 3 of 41_frame_assembler.md R129: count and report, drop the sync byte, seek again. -/
def rejectHeader (s : State) : State :=
  let h := s.hbuf
  let s := raise .headerCrcError (some (.hdrCrcErr h.b0 h.b1 h.b2 h.b3 h.b4 (headerCalc h))) s
  { s with hcnt := 0, fsm := .seekingSync }

/-- `CONSUME(RPL[0])` through `CONSUME(RPL[4])`, in order (41_frame_assembler.md R129 step 4). -/
def consumeList (consume : Byte → State → Result) : List Byte → State → Result
  | [], s => .next s
  | b :: bs, s => andThen (consume b s) (consumeList consume bs)

/-- `VALIDATE_HEADER()` (41_frame_assembler.md R125, R126, R129). `replay` is how the five replayed bytes are consumed; `RPL` is the copy of `hbuf` it is given. -/
def validateHeader (replay : Byte → State → Result) (s : State) : Result :=
  if headerCalc s.hbuf = s.hbuf.b4 then .next (latchHeader s)
  else consumeList replay [s.hbuf.b0, s.hbuf.b1, s.hbuf.b2, s.hbuf.b3, s.hbuf.b4] (rejectHeader s)

/-- FEED in READING_HEADER: store the byte; the fifth one enters VALIDATING_HEADER, which the same step leaves (41_frame_assembler.md R123, R124). -/
def consumeHeader (validate : State → Result) (b : Byte) (s : State) : Result :=
  andThen (storeHeaderByte b s) fun s =>
    if s.hcnt = 5 then validate { s with fsm := .validatingHeader } else .next s

/-! ### CONSUME -/

/-- FEED in SEEKING_SYNC (41_frame_assembler.md R121, R122). -/
def consumeSeeking (b : Byte) (s : State) : Result :=
  if b = Config.sync then .next { s with fsm := .readingHeader, hcnt := 0 }
  else .next (raise .frameSyncError none s)

/-- `CONSUME(b)` (41_frame_assembler.md R120), given what a fifth header byte leads to. -/
def consumeWith (validate : State → Result) (b : Byte) (s : State) : Result :=
  match s.fsm with
  | .seekingSync => consumeSeeking b s
  | .readingHeader => consumeHeader validate b s
  | .validatingHeader => .fault .validatingBetweenSteps
  | .readingData => consumeData b s

/-- `CONSUME` of a replayed byte. "The replay ... never reaches VALIDATE_HEADER" (41_frame_assembler.md R130), so RPL needs no nesting; a header that did complete here stops the model (log 12). -/
def consumeReplayed (b : Byte) (s : State) : Result := consumeWith (fun _ => .fault .nestedReplay) b s

/-- FEED b: `CONSUME(b)` (41_frame_assembler.md R120). -/
def execFeed (b : Byte) (s : State) : Result := consumeWith (validateHeader consumeReplayed) b s

end Sys2Proof.Machine
end

