-- ==== Sys2Proof/Machine/System.lean ====
section
/-! DEFINITION. RESET and IDLE (41_frame_assembler.md R150 to R153), and the register read (10_state.md R36). -/
namespace Sys2Proof.Machine

/-- What the n-th RESET leaves in `hbuf`: five free bytes (41_frame_assembler.md R150, "`S.hbuf` and `FBUF` become unspecified"; log 5). -/
def unspecifiedHeader (n : Nat) : HeaderBuf :=
  ⟨Config.unspecifiedByte n 0, Config.unspecifiedByte n 1, Config.unspecifiedByte n 2,
   Config.unspecifiedByte n 3, Config.unspecifiedByte n 4⟩

/-- RESET: every field of `S` takes its reset value, no event is left on the output port, and `hbuf` and FBUF become unspecified: free values, numbered by `freeCount` (41_frame_assembler.md R150; 10_state.md R39; log 5, log 7). What the host still asks stays asked. -/
def execReset (s : State) : Result :=
  .next { State.reset with
    hbuf := unspecifiedHeader s.freeCount
    readData := s.readData
    requests := s.requests
    freeCount := s.freeCount + 1 }

/-- IDLE: no state changes and no event (41_frame_assembler.md R152). -/
def execIdle (s : State) : Result := .next s

/-- REGREAD a: the word at the address, from the state after the last completed step; it writes no state of the block (10_state.md R36). -/
def execRegread (a : Byte) (s : State) : Result := .next { s with readData := some (regRead a s) }

end Sys2Proof.Machine
end

