-- ==== Sys2Proof/Machine/Dispatch.lean ====
section
/-! DEFINITION. One arm for each instruction. -/
namespace Sys2Proof.Machine

/-- The meaning of every instruction. -/
def exec (i : Instr) (s : State) : Host.Outcome State Fault Refusal :=
  match i with
  | .reset _ => Sys2Proof.Machine.execReset s
  | .feed b => Sys2Proof.Machine.execFeed b s
  | .idle _ => Sys2Proof.Machine.execIdle s
  | .regread a => Sys2Proof.Machine.execRegread a s
  | .rpsF6 t => Sys2Proof.Machine.execRpsF6 t s
  | .oneBsD50001 t => Sys2Proof.Machine.execOneBsD50001 t s
  | .fourBsA5 t => Sys2Proof.Machine.execFourBsA5 t s
  | .teachInD4 t => Sys2Proof.Machine.execTeachInD4 t s
  | .vldD21441 t => Sys2Proof.Machine.execVldD21441 t s
  | .vldD21440 t => Sys2Proof.Machine.execVldD21440 t s
  | .vldD20112 t => Sys2Proof.Machine.execVldD20112 t s
  | .vldD20101 t => Sys2Proof.Machine.execVldD20101 t s
  | .vldD20500 t => Sys2Proof.Machine.execVldD20500 t s
  | .unknownD2 t => Sys2Proof.Machine.execUnknownD2 t s
  | .unknownRorg t => Sys2Proof.Machine.execUnknownRorg t s

end Sys2Proof.Machine
end

