-- ==== Sys2Proof/WellFormed.lean ====
section
/-! DEFINITION. When an instruction is well formed. A port word and a register address always are (30_encoding.md R72, R95); a dispatch row is, when its operand is a telegram that a frame can carry, that both CRC checks passed (42_validator.md R163), and that selects that row (30_encoding.md R88 to R90). -/
namespace Sys2Proof

/-- The four header bytes of a telegram: data-length MSB, data-length LSB, optional-length, packet-type (30_encoding.md R73). -/
def Telegram.header (t : Telegram) : List Byte :=
  [t.dl.extractLsb' 8 8, t.dl.extractLsb' 0 8, t.ol, t.pt]

/-- Check 1: the two lengths fit the header's 16 and 8 bits (30_encoding.md R75). -/
def Telegram.lengthsFit (t : Telegram) : Bool := t.data.length < 65536 && t.opt.length < 256

/-- Check 2: the header CRC is the CRC of the four header bytes (40_crc8.md R108). -/
def Telegram.headerCrcOk (t : Telegram) : Bool := t.hcrc == Machine.crc8 t.header

/-- Check 3: the data CRC is the CRC of the data and optional portions (40_crc8.md R109). -/
def Telegram.dataCrcOk (t : Telegram) : Bool := t.dcrc == Machine.crc8 (t.data ++ t.opt)

/-- Check 4: the data portion selects the row (30_encoding.md R88 to R90). -/
def Telegram.selects (t : Telegram) (r : Row) : Bool :=
  match Machine.selectRow t.data with
  | .ok r' => r' == r
  | .error _ => false

/-- A telegram is well formed for a row when all four checks pass. -/
def Telegram.wellFormed (t : Telegram) (r : Row) : Bool :=
  t.lengthsFit && t.headerCrcOk && t.dataCrcOk && t.selects r

/-- Well-formedness of an instruction. -/
def Instr.wellFormed : Instr → Bool
  | .reset _ => true
  | .feed _ => true
  | .idle _ => true
  | .regread _ => true
  | .rpsF6 t => t.wellFormed .rps
  | .oneBsD50001 t => t.wellFormed .oneBs
  | .fourBsA5 t => t.wellFormed .fourBs
  | .teachInD4 t => t.wellFormed .teachIn
  | .vldD21441 t => t.wellFormed .vld1441
  | .vldD21440 t => t.wellFormed .vld1440
  | .vldD20112 t => t.wellFormed .vld0112
  | .vldD20101 t => t.wellFormed .vld0101
  | .vldD20500 t => t.wellFormed .vld0500
  | .unknownD2 t => t.wellFormed .unknownD2
  | .unknownRorg t => t.wellFormed .unknownRorg

end Sys2Proof
end

