-- ==== Sys2Proof/Decode.lean ====
section
/-! DEFINITION. The three decodings of the block (30_encoding.md, opening): the input port word, the register address, and the ESP3 frame with the dispatch of its data portion; and after them the encoder. All are total; what is no frame is rejected by name. -/
namespace Sys2Proof

/-- Why a byte sequence is no dispatched telegram. -/
inductive DecodeError where
  /-- the first byte is not 0x55 (30_encoding.md R73) -/
  | noSync
  /-- the header CRC byte differs from the CRC of the header (40_crc8.md R108) -/
  | headerCrc
  /-- the bytes end before the frame does (30_encoding.md R74) -/
  | truncated
  /-- the data CRC byte differs from the CRC of the data and optional portions (40_crc8.md R109) -/
  | dataCrc
  /-- `dl` = 0: no row is tried (43_unpack_dispatch.md R181) -/
  | emptyData
  /-- RORG 0xD2 with `dl` < 9: no row is tried (43_unpack_dispatch.md R183) -/
  | shortVld
  /-- bytes follow the frame where one frame was asked for -/
  | trailingBytes
  deriving DecidableEq, Repr

/-- The decode of the input port word, by `in[9:8]` (30_encoding.md R71, R72). -/
def decodePort (w : BitVec 10) : Instr :=
  if w.getLsbD 9 then .reset (w.extractLsb' 0 9)
  else if w.getLsbD 8 then .feed (w.extractLsb' 0 8)
  else .idle (w.extractLsb' 0 8)

/-- The register read port: the address is the whole request (30_encoding.md R95). -/
def decodeRead (a : Byte) : Instr := .regread a

/-- The decode of a valid telegram by the dispatch map (30_encoding.md R88 to R90). -/
def decodeTelegram (t : Telegram) : Except DecodeError Instr :=
  match Machine.selectRow t.data with
  | .ok r => .ok (r.instr t)
  | .error .emptyData => .error .emptyData
  | .error .shortVld => .error .shortVld

/-- The telegram at the head of a byte list, and the bytes after its frame (30_encoding.md R73 to R75). -/
def decodeFrameTelegram : List Byte → Except DecodeError (Telegram × List Byte)
  | s :: h0 :: h1 :: h2 :: h3 :: hc :: rest =>
    if s ≠ Config.sync then .error .noSync
    else if Machine.crc8 [h0, h1, h2, h3] ≠ hc then .error .headerCrc
    else
      let dl := (h0 ++ h1).toNat
      let ol := h2.toNat
      let data := rest.take dl
      let opt := (rest.drop dl).take ol
      match rest.drop (dl + ol) with
      | dcrc :: rest' =>
        if Machine.crc8 (data ++ opt) ≠ dcrc then .error .dataCrc
        else .ok ({ pt := h3, hcrc := hc, data := data, opt := opt, dcrc := dcrc }, rest')
      | [] => .error .truncated
  | s :: _ => if s ≠ Config.sync then .error .noSync else .error .truncated
  | [] => .error .truncated

/-- The dispatched instruction of the frame at the head of a byte list, and the bytes after the frame: "A decoder finds the end of a frame from its header alone" (30_encoding.md R74). -/
def decodeFrame (bs : List Byte) : Except DecodeError (Instr × List Byte) :=
  match decodeFrameTelegram bs with
  | .error e => .error e
  | .ok (t, rest) =>
    match decodeTelegram t with
    | .error e => .error e
    | .ok i => .ok (i, rest)

/-- What the block decodes: a port word, a register address, or the bytes of one frame. -/
inductive Encoding where
  | port (w : BitVec 10)
  | read (a : Byte)
  | frame (bytes : List Byte)
  deriving DecidableEq, Repr

/-- The decoder: total on every port word, every address and every byte list. -/
def decode : Encoding → Except DecodeError Instr
  | .port w => .ok (decodePort w)
  | .read a => .ok (decodeRead a)
  | .frame bytes =>
    match decodeFrame bytes with
    | .error e => .error e
    | .ok (i, []) => .ok i
    | .ok (_, _ :: _) => .error .trailingBytes

/-- The port word `{rst, valid, byte}` (30_encoding.md R70). -/
def portWord (rst valid : BitVec 1) (byte : Byte) : BitVec 10 := rst ++ valid ++ byte

/-- The bytes of a telegram's frame, offsets as 30_encoding.md R73 gives them; with the two CRC bytes right this is the expansion of `FRAME` (R97). -/
def encodeFrame (t : Telegram) : List Byte :=
  Config.sync :: t.header ++ [t.hcrc] ++ t.data ++ t.opt ++ [t.dcrc]

/-- The encoder, written from the port word layout (30_encoding.md R70, R71), the register port (R95) and the frame layout (R73). -/
def encode : Instr → Encoding
  | .reset x => .port (1#1 ++ x)
  | .feed b => .port (portWord 0 1 b)
  | .idle x => .port (portWord 0 0 x)
  | .regread a => .read a
  | .rpsF6 t => .frame (encodeFrame t)
  | .oneBsD50001 t => .frame (encodeFrame t)
  | .fourBsA5 t => .frame (encodeFrame t)
  | .teachInD4 t => .frame (encodeFrame t)
  | .vldD21441 t => .frame (encodeFrame t)
  | .vldD21440 t => .frame (encodeFrame t)
  | .vldD20112 t => .frame (encodeFrame t)
  | .vldD20101 t => .frame (encodeFrame t)
  | .vldD20500 t => .frame (encodeFrame t)
  | .unknownD2 t => .frame (encodeFrame t)
  | .unknownRorg t => .frame (encodeFrame t)

/-- The telegram with both CRC bytes computed: what the pseudo-instruction `FRAME pt, [data], [opt]` sends (30_encoding.md R97). -/
def frameTelegram (pt : Byte) (data opt : List Byte) : Telegram :=
  let t : Telegram := { pt := pt, hcrc := 0, data := data, opt := opt, dcrc := Machine.crc8 (data ++ opt) }
  { t with hcrc := Machine.crc8 t.header }

/-- The shortest telegram whose dispatch key is `k` and whose length the key's row admits, every other byte 0 (log 10). The key's three bytes are always there, so its length is at least 3. -/
def keyTelegram (k : BitVec 24) : Telegram :=
  let key : List Byte := [k.extractLsb' 16 8, k.extractLsb' 8 8, k.extractLsb' 0 8]
  frameTelegram 0 (key ++ List.replicate (Machine.rowMinLength (Machine.firstRow k) - 3) 0) []

/-- What the block decodes when a row of spec/opcode_table.json holds the number `w` in `nbits` bits: the table's 8-bit row is a register address, its 10-bit rows are port words, its 24-bit rows are dispatch keys (log 10). -/
def tableEncoding (nbits w : Nat) : Option Encoding :=
  if nbits = 0 then none
  else if nbits ≤ 8 then some (.read (BitVec.ofNat 8 w))
  else if nbits ≤ 16 then some (.port (BitVec.ofNat 10 w))
  else if nbits ≤ 24 then some (.frame (encodeFrame (keyTelegram (BitVec.ofNat 24 w))))
  else none

/-- The instruction that the decoder reads from a table row's word; every operand bit above `nbits` is 0. -/
def decodeTableWord (nbits w : Nat) : Option Instr :=
  match tableEncoding nbits w with
  | none => none
  | some e => (decode e).toOption

end Sys2Proof
end

