-- ==== Sys2Proof/Machine/Fetch.lean ====
section
/-! DEFINITION. Where the next instruction comes from: the host's requests, in order (20_memory.md R60; log 1), and how a table row's word is placed so that the next step runs it (log 9, log 10). -/
namespace Sys2Proof.Machine

/-- The next instruction and the state it runs in. A port word begins a transaction (log 2); a register read stands between two transactions and leaves the event port as it is (20_memory.md R62). With nothing offered the block sees an IDLE: "a source that delivers nothing looks like IDLE transactions" (60_exceptions.md R264). -/
def fetch (s : State) : Instr × State :=
  match s.requests with
  | [] => (.idle 0, beginTransaction s)
  | .port w :: rest => (decodePort w, beginTransaction { s with requests := rest })
  | .read a :: rest => (decodeRead a, { s with requests := rest })

/-- One request put in front of the others. -/
def offer (r : Request) (s : State) : State := { s with requests := r :: s.requests }

/-- A frame that carries `t`, fed up to its last byte: the header latched, every data and optional byte stored and in the running CRC, the data CRC byte offered next. The FEED of that byte completes the frame and runs the dispatch row that `t` selects (41_frame_assembler.md R126, R140, R141; log 9). -/
def awaitLastByte (t : Telegram) (s : State) : State :=
  let bytes := t.data ++ t.opt
  offer (.port (portWord 0 1 t.dcrc)) { s with
    fsm := .readingData
    hcnt := 0
    dl := t.dl
    ol := t.ol
    pt := t.pt
    hcrc := t.hcrc
    total := totalLength t.dl t.ol
    dcnt := BitVec.ofNat 17 bytes.length
    dacc := crc8 bytes
    fbuf := memSetList s.fbuf 0 bytes }

/-- The state whose next step runs what the encoding holds. -/
def place (e : Encoding) (s : State) : State :=
  match e with
  | .port w => offer (.port w) s
  | .read a => offer (.read a) s
  | .frame bytes =>
    match decodeFrameTelegram bytes with
    | .ok (t, _) => awaitLastByte t s
    | .error _ => s

end Sys2Proof.Machine
end

