-- ==== Sys2Proof/Machine/Step.lean ====
section
/-! DEFINITION. One step: the next request's instruction, run (00_scope.md R17, R19; 20_memory.md R60). -/
namespace Sys2Proof.Machine

/-- One step of the machine. -/
def step (s : State) : Host.Outcome State Fault Refusal := exec (fetch s).1 (fetch s).2

/-- `s` with a table row's word placed where the next step finds its instruction: a port word or a register address in front of the host's requests; for a dispatch key, a frame whose data portion holds that key and that wants only its data CRC byte (log 9, log 10). -/
def State.withFetchWord (s : State) (nbits w : Nat) : State :=
  match tableEncoding nbits w with
  | none => s
  | some e => place e s

end Sys2Proof.Machine
end

