-- ==== Sys2Proof/Safety.lean ====
section
/-! DEFINITION. The terms that claims use: the invariant of the states between steps, the counter laws, what dispatch decides as a function of the data portion alone, byte streams and request streams run on the machine, and the sliding-window scan that the synchronizer is measured against. -/
namespace Sys2Proof.Machine

/-! ### States between steps -/

/-- The frame buffer holds `bs` from index 0 on: every one of these bytes has been written there (10_state.md R28; 42_validator.md R161). -/
abbrev HoldsBytes (m : List Host.Cell) (bs : List Byte) : Prop := ∀ i, i < bs.length → memGet m i = bs[i]?

/-- What holds of the block between steps (10_state.md R22 to R28; 40_crc8.md R103, R108; 20_memory.md R50, R57). A state that fails it is one no run from reset reaches. -/
structure Inv (s : State) : Prop where
  /-- VALIDATING_HEADER is never visible (R22) -/
  fsmVisible : s.fsm ≠ .validatingHeader
  /-- `hcnt` is 0 to 4 (R23) -/
  headerCount : s.hcnt.toNat ≤ 4
  /-- `hcnt` is 0 outside READING_HEADER (R23) -/
  headerCountZero : s.fsm ≠ .readingHeader → s.hcnt = 0
  /-- `total` = `dl + ol + 1`, or no header was latched since reset (R25) -/
  lengths : s.total.toNat = s.dl.toNat + s.ol.toNat + 1 ∨ (s.total = 0 ∧ s.dl = 0 ∧ s.ol = 0)
  /-- `dcnt` is 0 to `total` (R26) -/
  progress : s.dcnt.toNat ≤ s.total.toNat
  /-- the latched header passed its CRC (R25; 40_crc8.md R108) -/
  latchedCrc : s.hcrc = crc8 [s.dl.extractLsb' 8 8, s.dl.extractLsb' 0 8, s.ol, s.pt]
  /-- the frame buffer is in canonical form (20_memory.md R50) -/
  memory : Memory.wf s.fbuf
  /-- a frame being read wants at least one more byte, every byte of it so far has been written to FBUF, and `dacc` is their CRC (R26, R27, R28) -/
  frame : s.fsm = .readingData → s.dcnt.toNat < s.total.toNat ∧
    ∃ bs, bs.length = s.dcnt.toNat ∧ HoldsBytes s.fbuf bs ∧ s.dacc = crc8 bs

/-- The two laws of 10_state.md R31, in 32-bit arithmetic. -/
abbrev counterLaws (s : State) : Prop :=
  s.cntValid = s.cntLenMismatch + s.cntUnknown + s.cntDecodeErr + s.cntDecoded ∧
  s.cntError = s.cntHdrCrc + s.cntDataCrc + s.cntLenMismatch + s.cntDecodeErr

/-! ### What dispatch decides -/

/-- The four outcomes of a telegram (43_unpack_dispatch.md R190). -/
inductive Verdict where
  | decoded (r : Reading)
  | lenMismatch
  | unknown (rorg : Byte) (func type : Option Byte) (raw : List Byte)
  | decodeErr (p : Profile)
  deriving DecidableEq, Repr

/-- The event of an outcome (30_encoding.md R92). -/
def Verdict.event : Verdict → Telegram → Event
  | .decoded r, t => .decoded t r
  | .lenMismatch, t => .lenMismatch t
  | .unknown rorg func type raw, t => .unknown t rorg func type raw
  | .decodeErr p, t => .decodeErr t p

/-- The counters and the event of an outcome (43_unpack_dispatch.md R184, R186, R188, R189). -/
def Verdict.report (v : Verdict) (t : Telegram) (s : State) : State :=
  match v with
  | .decoded r => { s with cntDecoded := s.cntDecoded + 1, out := s.out ++ [.decoded t r] }
  | .lenMismatch => { s with
      cntLenMismatch := s.cntLenMismatch + 1
      cntError := s.cntError + 1
      out := s.out ++ [.lenMismatch t] }
  | .unknown rorg func type raw => { s with
      cntUnknown := s.cntUnknown + 1
      out := s.out ++ [.unknown t rorg func type raw] }
  | .decodeErr p => { s with
      cntDecodeErr := s.cntDecodeErr + 1
      cntError := s.cntError + 1
      out := s.out ++ [.decodeErr t p] }

/-- A profile's outcome under its length rule (43_unpack_dispatch.md R185, R188, R189). -/
def profileVerdict (p : Profile) (lengthOk : Bool) (d : List Byte) (f : Option Fields) : Verdict :=
  if lengthOk then
    match f with
    | some f => .decoded (reading p d f)
    | none => .decodeErr p
  else .lenMismatch

/-- The outcome of a data portion, in the fixed order of 60_exceptions.md R266 (items 3 to 8) and by the RORG, FUNC and TYPE bytes that 43_unpack_dispatch.md R182 and R183 name, without the table of masks. -/
def verdict (d : List Byte) : Verdict :=
  let n := d.length
  let rorg := byteAt d 0
  let func := byteAt d 1
  let type := byteAt d 2
  if n = 0 then .lenMismatch
  else if rorg = 0xF6 then profileVerdict .rps (n == 7) d (unpackRps d)
  else if rorg = 0xD5 then profileVerdict .oneBs (n == 7) d (unpackOneBs d)
  else if rorg = 0xA5 then profileVerdict .fourBs (n == 10) d (unpackFourBs d)
  else if rorg = 0xD4 then profileVerdict .teachIn (6 ≤ n) d (unpackTeachIn d)
  else if rorg = 0xD2 then
    if n < 9 then .lenMismatch
    else if func = 0x14 ∧ type = 0x41 then profileVerdict .vld1441 (n == 18) d (unpackVld1441 d)
    else if func = 0x14 ∧ type = 0x40 then profileVerdict .vld1440 (n == 18) d (unpackVld1440 d)
    else if func = 0x01 ∧ type = 0x12 then profileVerdict .vld0112 (11 ≤ n) d (unpackVld0112 d)
    else if func = 0x01 ∧ type = 0x01 then profileVerdict .vld0101 (9 ≤ n) d (unpackVld0101 d)
    else if func = 0x05 ∧ type = 0x00 then profileVerdict .vld0500 (9 ≤ n) d (unpackVld0500 d)
    else .unknown 0xD2 (some func) (some type) d
  else .unknown rorg none none d

/-- The outcome of a whole frame's candidate record, item 2 of 60_exceptions.md R266 included. -/
def frameEvent (t : Telegram) : Event :=
  if crc8 (t.data ++ t.opt) ≠ t.dcrc then .dataCrcErr t (crc8 (t.data ++ t.opt))
  else (verdict t.data).event t

/-! ### Streams -/

/-- The bytes of a stream fed one after another, events kept in `out` in order. -/
def feedAll (bs : List Byte) (s : State) : Result := consumeList (fun b s => exec (.feed b) s) bs s

/-- The step that serves one request of the host. -/
def serve (r : Request) (s : State) : Result := step { s with requests := [r] }

/-- The events that the step of a request puts out: a port word's are the ones on the output port after it; a register read puts out none (30_encoding.md R92; 10_state.md R36). -/
def newEvents (r : Request) (s' : State) : List Event :=
  match r with
  | .port _ => s'.out
  | .read _ => []

/-- The events of a request stream, in order, and the state after it; nothing if a step stops. -/
def trace : List Request → State → Option (List Event × State)
  | [], s => some ([], s)
  | r :: rs, s =>
    match serve r s with
    | .next s' => (trace rs s').map fun p => (newEvents r s' ++ p.1, p.2)
    | .fault _ => none
    | .refused _ => none

/-- The block without its two output ports and the host's requests. -/
def blockOf (s : State) : State := { s with out := [], readData := none, requests := [] }

/-- A FEED or a RESET: the requests that can change the block. -/
def changesBlock : Request → Bool
  | .port w => w.getLsbD 9 || w.getLsbD 8
  | .read _ => false

/-! ### The sliding-window scan -/

/-- The scan of 41_frame_assembler.md R132 over a byte stream: the events of the header mismatches and frames it finds, in order, and the number of non-0x55 bytes outside every frame before it stops for want of bytes. The first argument bounds the positions it tries. -/
def scan : Nat → List Byte → List Event × Nat
  | 0, _ => ([], 0)
  | _ + 1, [] => ([], 0)
  | n + 1, b :: rest =>
    if b ≠ 0x55 then ((scan n rest).1, (scan n rest).2 + 1)
    else
      match rest with
      | h0 :: h1 :: h2 :: h3 :: hc :: body =>
        if crc8 [h0, h1, h2, h3] ≠ hc then
          (.hdrCrcErr h0 h1 h2 h3 hc (crc8 [h0, h1, h2, h3]) :: (scan n rest).1, (scan n rest).2)
        else
          let dl := h0.toNat * 256 + h1.toNat
          let ol := h2.toNat
          match body.drop (dl + ol) with
          | [] => ([], 0)
          | dcrc :: after =>
            let t : Telegram :=
              { pt := h3, hcrc := hc, data := body.take dl, opt := (body.drop dl).take ol, dcrc := dcrc }
            (frameEvent t :: (scan n after).1, (scan n after).2)
      | _ => ([], 0)

end Sys2Proof.Machine
end

