-- ==== Sys2Proof/Certificates/Slice0/Obligations.lean ====
section
/-! DEFINITION. The statements for the provers, in the order of the spec's files: state and registers, encodings, CRC-8, the synchronizer and assembler, the validator, dispatch, the profiles, errors, reset. -/

open Sys2Proof Sys2Proof.Machine

/-! ### State between steps (10_state.md) -/

/-- 10_state.md section 7: the state after power-on. The five bytes of `hbuf` are the model's choice (log 4) and what FBUF reads as is free (log 7); neither is part of this statement. -/
def Obligations.PowerOnState : Prop :=
  let s := State.reset
  s.fsm = .seekingSync ∧ s.hcnt = 0 ∧ s.dl = 0 ∧ s.ol = 0 ∧ s.pt = 0 ∧ s.hcrc = 0 ∧ s.total = 0 ∧ s.dcnt = 0 ∧
  s.dacc = 0 ∧ (∀ c, counter c s = 0) ∧ framePending s = 0 ∧ s.out = []

/-- The invariant of the states between steps holds at reset. -/
def Obligations.ResetMeetsInvariant : Prop := Inv State.reset

/-- Every step keeps the invariant: no visible VALIDATING_HEADER, `hcnt` at most 4 and 0 outside READING_HEADER, `dcnt` at most `total`, the latched header CRC-correct, FBUF in canonical form, `dacc` the CRC of the bytes received. -/
def Obligations.StepKeepsInvariant : Prop :=
  ∀ s s' : State, Inv s → step s = .next s' → Inv s'

/-- The two counter laws are kept by every step, from every state in which they hold. -/
def Obligations.StepKeepsCounterLaws : Prop :=
  counterLaws State.reset ∧ ∀ s s' : State, counterLaws s → step s = .next s' → counterLaws s'

/-- `S.total` never wraps: it is the sum of the two lengths and 1, at least 1 and at most 65791. -/
def Obligations.TotalLengthNeverWraps : Prop :=
  ∀ (dl : BitVec 16) (ol : Byte),
    (totalLength dl ol).toNat = dl.toNat + ol.toNat + 1 ∧ 1 ≤ (totalLength dl ol).toNat ∧ (totalLength dl ol).toNat ≤ 65791

/-- STATUS, bit field by bit field, and the only values it takes between steps. -/
def Obligations.StatusWordValues : Prop :=
  (∀ s : State, (statusWord s).toNat =
    (if s.fsm = .seekingSync then 0 else 32) + 4 * s.hcnt.toNat +
      (match s.fsm with | .seekingSync => 0 | .readingHeader => 1 | .validatingHeader => 2 | .readingData => 3)) ∧
  ∀ s : State, Inv s →
    (s.fsm = .seekingSync ∧ statusWord s = 0) ∨
    (s.fsm = .readingHeader ∧ s.hcnt.toNat ≤ 4 ∧ (statusWord s).toNat = 0x21 + 4 * s.hcnt.toNat) ∨
    (s.fsm = .readingData ∧ statusWord s = 0x23)

/-- A register read answers the word of the register map at its address and changes nothing else: not a field of the block, not the event on the output port. -/
def Obligations.RegisterReadAnswersMap : Prop :=
  ∀ (a : Byte) (s : State),
    exec (.regread a) s = .next { s with readData := some (
      if a = 0x00 then BitVec.ofNat 32 ((if s.fsm = .seekingSync then 0 else 32) + 4 * s.hcnt.toNat +
        (match s.fsm with | .seekingSync => 0 | .readingHeader => 1 | .validatingHeader => 2 | .readingData => 3))
      else if a = 0x01 then BitVec.ofNat 32 s.dcnt.toNat
      else if a = 0x02 then BitVec.ofNat 32 s.total.toNat
      else if a = 0x03 then BitVec.ofNat 32 (s.dl.toNat + 2 ^ 16 * s.ol.toNat + 2 ^ 24 * s.pt.toNat)
      else if a = 0x04 then s.cntSyncDiscard
      else if a = 0x05 then s.cntHdrCrc
      else if a = 0x06 then s.cntDataCrc
      else if a = 0x07 then s.cntValid
      else if a = 0x08 then s.cntLenMismatch
      else if a = 0x09 then s.cntUnknown
      else if a = 0x0A then s.cntDecodeErr
      else if a = 0x0B then s.cntDecoded
      else if a = 0x0C then s.cntError
      else 0) }

/-! ### Steps and ordering (20_memory.md) -/

/-- A step runs the decoded instruction: a port word offered next is taken from the requests, begins with an empty output port, and runs as the instruction it decodes to. With nothing offered a step is an IDLE (the model's reading of a source that delivers nothing, log 1). -/
def Obligations.StepRunsPortWord : Prop :=
  (∀ (s : State) (w : BitVec 10) (rest : List Request), s.requests = .port w :: rest →
    step s = exec (decodePort w) { s with requests := rest, out := [], readData := none }) ∧
  ∀ s : State, s.requests = [] → step s = .next { s with out := [], readData := none }

/-- A step runs the register read offered next. That a register read, which the spec puts between two steps, is a step of the model's own is its DESIGN CHOICE (log 1); that the event of the step before stays on the output port is its reading, DEDUCED (log 2); the answer's place in the state is its DESIGN CHOICE (log 3). -/
def Obligations.StepRunsRegisterRead : Prop :=
  ∀ (s : State) (a : Byte) (rest : List Request), s.requests = .read a :: rest →
    step s = exec (.regread a) { s with requests := rest } ∧
    ∃ s', step s = .next s' ∧ s'.out = s.out ∧ s'.readData = some (regRead a s) ∧
      blockOf s' = blockOf s

/-- A table word placed for the next step is what the next step runs: a port word runs as the instruction it decodes to, a register address as its read, and every request the host had offered is still there. -/
def Obligations.PlacedWordRunsNext : Prop :=
  ∀ (s : State) (w : Nat),
    step (s.withFetchWord 16 w) = exec (decodePort (BitVec.ofNat 10 w)) { s with out := [], readData := none } ∧
    step (s.withFetchWord 8 w) = exec (.regread (BitVec.ofNat 8 w)) s ∧
    decodeTableWord 16 w = some (decodePort (BitVec.ofNat 10 w)) ∧
    decodeTableWord 8 w = some (.regread (BitVec.ofNat 8 w))

/-- A dispatch key placed for the next step: the next step completes a frame whose telegram's data portion holds the key, and runs the row that the decoder reads from the key, in a state with that frame counted as valid. -/
def Obligations.PlacedKeyRunsItsRow : Prop :=
  ∀ (s : State) (k : Nat), k < 2 ^ 24 → ∃ (i : Instr) (s1 : State),
    decodeTableWord 24 k = some i ∧ i.wellFormed = true ∧
    step (s.withFetchWord 24 k) = exec i s1 ∧
    s1.fsm = .seekingSync ∧ s1.cntValid = s.cntValid + 1 ∧ s1.out = [] ∧ s1.requests = s.requests

/-- What FEED does to memory: the byte stored to is the one at index `dcnt`, in READING_DATA only; there the byte fed is read back, and every other index reads as before, whether something has written it or it still holds its unspecified value. -/
def Obligations.FeedStoresOnlyAtProgress : Prop :=
  ∀ (s s' : State) (b : Byte), exec (.feed b) s = .next s' →
    (s.fsm = .readingData → memGet s'.fbuf s.dcnt.toNat = some b ∧ loadByte s'.freeCount s'.fbuf s.dcnt.toNat = .ok b) ∧
    ∀ a : Nat, ¬ (s.fsm = .readingData ∧ a = s.dcnt.toNat) →
      memGet s'.fbuf a = memGet s.fbuf a ∧ loadByte s'.freeCount s'.fbuf a = loadByte s.freeCount s.fbuf a

/-- IDLE transactions and register reads are transparent: taking them out of a request stream changes neither the events, in order, nor the block at the end. -/
def Obligations.IdlesAndReadsAreTransparent : Prop :=
  ∀ (rs : List Request) (s : State) (es : List Event) (s' : State), trace rs s = some (es, s') →
    ∃ s'', trace (rs.filter changesBlock) s = some (es, s'') ∧ blockOf s'' = blockOf s'

/-! ### Encodings (30_encoding.md) -/

/-- Port words written out from the layout (rst in bit 9, valid in bit 8, byte in bits 7 to 0), register addresses and one frame decode to what they stand for. -/
def Obligations.WrittenWordsDecode : Prop :=
  decodePort 0b00_00000000#10 = .idle 0x00 ∧
  decodePort 0b00_11111111#10 = .idle 0xFF ∧
  decodePort 0b01_01010101#10 = .feed 0x55 ∧
  decodePort 0b01_00010010#10 = .feed 0x12 ∧
  decodePort 0b10_00000000#10 = .reset 0 ∧
  decodePort 0b11_01010101#10 = .reset 0x155 ∧
  decode (.read 0x0C) = .ok (.regread 0x0C) ∧
  decode (.frame [0x55, 0x00, 0x07, 0x00, 0x01, 0x11, 0xF6, 0x70, 0x78, 0x9A, 0xBC, 0xDE, 0x30, 0x03]) =
    .ok (.rpsF6 { pt := 0x01, hcrc := 0x11, data := [0xF6, 0x70, 0x78, 0x9A, 0xBC, 0xDE, 0x30], opt := [], dcrc := 0x03 })

/-- Every port word is exactly one of RESET, FEED and IDLE, by its two high bits, RESET before FEED; FEED carries the low byte; and the ignored bits of RESET and IDLE have no effect. -/
def Obligations.PortWordIsOneTransaction : Prop :=
  (∀ w : BitVec 10, w.toNat ≥ 512 → ∃ x, decodePort w = .reset x) ∧
  (∀ w : BitVec 10, 256 ≤ w.toNat → w.toNat < 512 → decodePort w = .feed (BitVec.ofNat 8 (w.toNat - 256))) ∧
  (∀ w : BitVec 10, w.toNat < 256 → ∃ x, decodePort w = .idle x) ∧
  (∀ (x y : BitVec 9) (s : State), exec (.reset x) s = exec (.reset y) s) ∧
  (∀ (x y : Byte) (s : State), exec (.idle x) s = exec (.idle y) s)

/-- Decode and encode agree: for every well-formed instruction, with every operand at every value its encoding admits, the decoder gives the instruction back. -/
def Obligations.DecodeEncodeRoundTrip : Prop :=
  ∀ i : Instr, i.wellFormed = true → decode (encode i) = .ok i

/-- A frame's end is found from its header alone: whatever bytes follow the frame of a telegram that passes its length and CRC checks, the decoder takes exactly the frame's `7 + dl + ol` bytes. -/
def Obligations.FrameEndFoundFromHeader : Prop :=
  ∀ (t : Telegram) (rest : List Byte), t.lengthsFit = true → t.headerCrcOk = true → t.dataCrcOk = true →
    decodeFrameTelegram (encodeFrame t ++ rest) = .ok (t, rest) ∧
    (encodeFrame t).length = 7 + t.dl.toNat + t.ol.toNat ∧ 7 ≤ (encodeFrame t).length ∧ (encodeFrame t).length ≤ 65797

/-- The other direction: whatever byte list the decoder accepts is the encoding of the telegram it reads, followed by the bytes it leaves; and that telegram passes its length and CRC checks. -/
def Obligations.DecodedFrameReencodes : Prop :=
  ∀ (bs rest : List Byte) (t : Telegram), decodeFrameTelegram bs = .ok (t, rest) →
    encodeFrame t ++ rest = bs ∧ t.lengthsFit = true ∧ t.headerCrcOk = true ∧ t.dataCrcOk = true

/-- The dispatch map selects by the RORG byte, and inside 0xD2 by FUNC and TYPE; the rows of RORG 0xF6, 0xD5, 0xA5 and 0xD4 do not look at the next two bytes; an empty data portion and a D2 one shorter than 9 select no row. -/
def Obligations.DispatchMapSelectsRow : Prop :=
  (selectRow [] = .error .emptyData) ∧
  (∀ d : List Byte, d.length < 8 → selectRow (0xD2 :: d) = .error .shortVld) ∧
  (∀ d : List Byte, selectRow (0xF6 :: d) = .ok .rps ∧ selectRow (0xD5 :: d) = .ok .oneBs ∧
    selectRow (0xA5 :: d) = .ok .fourBs ∧ selectRow (0xD4 :: d) = .ok .teachIn) ∧
  (∀ (func type : Byte) (d : List Byte), 6 ≤ d.length → selectRow (0xD2 :: func :: type :: d) = .ok (
    if func = 0x14 ∧ type = 0x41 then .vld1441
    else if func = 0x14 ∧ type = 0x40 then .vld1440
    else if func = 0x01 ∧ type = 0x12 then .vld0112
    else if func = 0x01 ∧ type = 0x01 then .vld0101
    else if func = 0x05 ∧ type = 0x00 then .vld0500
    else .unknownD2)) ∧
  (∀ (rorg : Byte) (d : List Byte), rorg ≠ 0xF6 → rorg ≠ 0xD5 → rorg ≠ 0xA5 → rorg ≠ 0xD4 → rorg ≠ 0xD2 →
    selectRow (rorg :: d) = .ok .unknownRorg)

/-! ### CRC-8 (40_crc8.md) -/

/-- The table form: one step of the CRC is one look into the printed table, for all 65536 pairs. -/
def Obligations.CrcTableIsUpdate : Prop :=
  crcTable.length = 256 ∧ ∀ c b : Byte, crcTable[(c ^^^ b).toNat]? = some (crc8Update c b)

/-- The corner cases of the CRC: the empty list, leading zero bytes, linearity over lists of equal length, and the residue. -/
def Obligations.CrcLinearAndResidue : Prop :=
  crc8 [] = 0 ∧
  (∀ xs : List Byte, crc8 (0x00 :: xs) = crc8 xs) ∧
  (∀ xs ys : List Byte, xs.length = ys.length → crc8 (xorBytes xs ys) = crc8 xs ^^^ crc8 ys) ∧
  (∀ xs : List Byte, crc8 (xs ++ [crc8 xs]) = 0)

/-- Error detection: the CRC of an error pattern is not 0 for an odd number of flipped bits (one flipped bit among them) and for a burst within 8 consecutive bits; it is 0 for exactly two flipped bits 127 positions apart. -/
def Obligations.CrcDetectsErrors : Prop :=
  (∀ e : List Byte, (bitsOf e).count true % 2 = 1 → crc8 e ≠ 0) ∧
  (∀ (e : List Byte) (p : Nat), true ∈ bitsOf e →
    (∀ j, (bitsOf e)[j]? = some true → p ≤ j ∧ j < p + 8) → crc8 e ≠ 0) ∧
  (∀ (e : List Byte) (p : Nat), (∀ j, (bitsOf e)[j]? = some true ↔ (j = p ∨ j = p + 127)) → crc8 e = 0)

/-! ### The synchronizer and the assembler (41_frame_assembler.md) -/

/-- FEED 0x55 in SEEKING_SYNC starts a header. -/
def Obligations.FeedSyncStartsHeader : Prop :=
  ∀ s : State, s.fsm = .seekingSync →
    exec (.feed 0x55) s = .next { s with fsm := .readingHeader, hcnt := 0 }

/-- FEED of any other byte in SEEKING_SYNC is discarded and counted; nothing else changes. The count is one per byte (decision D9). -/
def Obligations.FeedStrayByteIsCounted : Prop :=
  ∀ (s : State) (b : Byte), s.fsm = .seekingSync → b ≠ 0x55 →
    exec (.feed b) s = .next { s with cntSyncDiscard := s.cntSyncDiscard + 1 }

/-- FEED of one of the first four header bytes stores it and counts it, whatever its value, 0x55 included. -/
def Obligations.FeedHeaderByteAccumulates : Prop :=
  ∀ (s : State) (b : Byte), s.fsm = .readingHeader → s.hcnt.toNat ≤ 3 →
    exec (.feed b) s = .next { s with
      hbuf :=
        { b0 := if s.hcnt.toNat = 0 then b else s.hbuf.b0
          b1 := if s.hcnt.toNat = 1 then b else s.hbuf.b1
          b2 := if s.hcnt.toNat = 2 then b else s.hbuf.b2
          b3 := if s.hcnt.toNat = 3 then b else s.hbuf.b3
          b4 := s.hbuf.b4 }
      hcnt := BitVec.ofNat 3 (s.hcnt.toNat + 1) }

/-- FEED of a fifth header byte that is the CRC of the four before it latches the header and starts the payload, whatever the lengths and the packet type. -/
def Obligations.FeedHeaderMatchLatches : Prop :=
  ∀ (s : State) (b : Byte), s.fsm = .readingHeader → s.hcnt.toNat = 4 →
    crc8 [s.hbuf.b0, s.hbuf.b1, s.hbuf.b2, s.hbuf.b3] = b →
    exec (.feed b) s = .next { s with
      hbuf := { s.hbuf with b4 := b }
      dl := BitVec.ofNat 16 (s.hbuf.b0.toNat * 256 + s.hbuf.b1.toNat)
      ol := s.hbuf.b2
      pt := s.hbuf.b3
      hcrc := b
      total := BitVec.ofNat 17 (s.hbuf.b0.toNat * 256 + s.hbuf.b1.toNat + s.hbuf.b2.toNat + 1)
      dcnt := 0
      dacc := 0
      hcnt := 0
      fsm := .readingData }

/-- FEED of a fifth header byte that is not that CRC: the error is counted and reported, the sync byte is dropped, and the five bytes are scanned again; with k the place of the first 0x55 among them (5 if there is none), k bytes are counted as discarded, and the bytes after the 0x55 are the start of a new header. -/
def Obligations.FeedHeaderMismatchReplays : Prop :=
  ∀ (s : State) (b : Byte), s.fsm = .readingHeader → s.hcnt.toNat = 4 →
    crc8 [s.hbuf.b0, s.hbuf.b1, s.hbuf.b2, s.hbuf.b3] ≠ b →
    let rpl := [s.hbuf.b0, s.hbuf.b1, s.hbuf.b2, s.hbuf.b3, b]
    let k := rpl.findIdx (fun x => x == 0x55)
    let again := rpl.drop (k + 1)
    exec (.feed b) s = .next { s with
      cntHdrCrc := s.cntHdrCrc + 1
      cntError := s.cntError + 1
      cntSyncDiscard := s.cntSyncDiscard + BitVec.ofNat 32 k
      out := s.out ++ [.hdrCrcErr s.hbuf.b0 s.hbuf.b1 s.hbuf.b2 s.hbuf.b3 b
        (crc8 [s.hbuf.b0, s.hbuf.b1, s.hbuf.b2, s.hbuf.b3])]
      fsm := if k < 5 then .readingHeader else .seekingSync
      hcnt := BitVec.ofNat 3 again.length
      hbuf :=
        { b0 := again.getD 0 s.hbuf.b0
          b1 := again.getD 1 s.hbuf.b1
          b2 := again.getD 2 s.hbuf.b2
          b3 := again.getD 3 s.hbuf.b3
          b4 := b } }

/-- FEED of a data or optional byte, whatever its value, 0x55 included: it is stored at index `dcnt`, enters the running CRC and is counted; no counter, no event. `total` is at most 65791 by `TotalLengthNeverWraps`. -/
def Obligations.FeedDataByteIsBuffered : Prop :=
  ∀ (s : State) (b : Byte), s.fsm = .readingData → s.dcnt.toNat + 1 < s.total.toNat → s.total.toNat ≤ 65791 →
    exec (.feed b) s = .next { s with
      fbuf := memSet s.fbuf s.dcnt.toNat b
      dacc := crc8Update s.dacc b
      dcnt := BitVec.ofNat 17 (s.dcnt.toNat + 1) }

/-- FEED of the data CRC byte when it differs from the running CRC: the candidate record is reported as DataCrcError and counted, nothing is dispatched, and the block seeks a sync byte again. -/
def Obligations.FrameEndDataCrcMismatch : Prop :=
  ∀ (s : State) (b : Byte) (data opt : List Byte), s.fsm = .readingData →
    s.total.toNat = s.dl.toNat + s.ol.toNat + 1 → s.dcnt.toNat + 1 = s.total.toNat →
    loadBytes s.freeCount s.fbuf 0 s.dl.toNat = .ok data → loadBytes s.freeCount s.fbuf s.dl.toNat s.ol.toNat = .ok opt →
    s.dacc ≠ b →
    exec (.feed b) s = .next { s with
      fbuf := memSet s.fbuf s.dcnt.toNat b
      dcnt := s.total
      fsm := .seekingSync
      cntDataCrc := s.cntDataCrc + 1
      cntError := s.cntError + 1
      out := s.out ++ [.dataCrcErr { pt := s.pt, hcrc := s.hcrc, data := data, opt := opt, dcrc := b } s.dacc] }

/-- FEED of the data CRC byte when it equals the running CRC: the telegram is counted as valid and dispatched; what it ends in is the outcome of its data portion. -/
def Obligations.FrameEndDispatchesTelegram : Prop :=
  ∀ (s : State) (b : Byte) (data opt : List Byte), s.fsm = .readingData →
    s.total.toNat = s.dl.toNat + s.ol.toNat + 1 → s.dcnt.toNat + 1 = s.total.toNat →
    loadBytes s.freeCount s.fbuf 0 s.dl.toNat = .ok data → loadBytes s.freeCount s.fbuf s.dl.toNat s.ol.toNat = .ok opt →
    s.dacc = b →
    exec (.feed b) s = .next
      ((verdict data).report { pt := s.pt, hcrc := s.hcrc, data := data, opt := opt, dcrc := b } { s with
        fbuf := memSet s.fbuf s.dcnt.toNat b
        dcnt := s.total
        fsm := .seekingSync
        cntValid := s.cntValid + 1 })

/-- One FEED, at most one event, and from where: a header error only from the fifth byte of a header, a frame outcome only from a byte of READING_DATA after which the block seeks a sync byte. -/
def Obligations.FeedEmitsAtMostOneEvent : Prop :=
  ∀ (s s' : State) (b : Byte), exec (.feed b) s = .next s' →
    s'.out = s.out ∨
    ∃ e, s'.out = s.out ++ [e] ∧
      ((s.fsm = .readingHeader ∧ s.hcnt.toNat = 4 ∧ eventCause e = .headerCrcError) ∨
       (s.fsm = .readingData ∧ s'.fsm = .seekingSync ∧ eventCause e ≠ .headerCrcError))

/-- Every byte is accepted in every state between steps, and leaves a state that accepts the next byte. -/
def Obligations.FeedNeverRefusesByte : Prop :=
  ∀ (s : State) (b : Byte), Inv s → ∃ s', exec (.feed b) s = .next s' ∧ Inv s'

/-- RESET sets every field to its reset value, in any state, the middle of a frame included, with no event; `hbuf` and FBUF become unspecified: the five bytes of `hbuf` are free values (log 5), and FBUF lists nothing, so that every index reads as a free value of the new number of RESETs (log 7); nothing is said of any of them. What the host still asks stays asked. -/
def Obligations.ResetTransactionEffect : Prop :=
  ∀ (x : BitVec 9) (s : State),
    exec (.reset x) s = .next {
      fsm := .seekingSync, hcnt := 0
      hbuf := ⟨Config.unspecifiedByte s.freeCount 0, Config.unspecifiedByte s.freeCount 1,
        Config.unspecifiedByte s.freeCount 2, Config.unspecifiedByte s.freeCount 3, Config.unspecifiedByte s.freeCount 4⟩
      dl := 0, ol := 0, pt := 0, hcrc := 0, total := 0, dcnt := 0, dacc := 0, fbuf := []
      cntSyncDiscard := 0, cntHdrCrc := 0, cntDataCrc := 0, cntValid := 0, cntLenMismatch := 0, cntUnknown := 0
      cntDecodeErr := 0, cntDecoded := 0, cntError := 0
      out := [], readData := s.readData, requests := s.requests, freeCount := s.freeCount + 1 }

/-- IDLE, every port word whose two high bits are 0, changes nothing, in any state and any number of times: a partial frame stays pending. -/
def Obligations.IdleChangesNothing : Prop :=
  (∀ (x : Byte) (s : State), exec (.idle x) s = .next s) ∧
  (∀ (w : BitVec 10) (s : State), w.toNat < 256 → exec (decodePort w) s = .next s) ∧
  ∀ (xs : List Byte) (s : State), consumeList (fun x t => exec (.idle x) t) xs s = .next s

/-- The whole frame of a telegram that a header can announce and whose header CRC is right, fed from SEEKING_SYNC in any state: the header is latched, the payload is in FBUF, and the frame ends in DataCrcError or in the outcome of its data portion. -/
def Obligations.FrameFedReachesOutcome : Prop :=
  ∀ (t : Telegram) (s : State), t.lengthsFit = true → t.headerCrcOk = true → s.fsm = .seekingSync →
    let s1 := { s with
      hcnt := 0
      hbuf := ⟨t.dl.extractLsb' 8 8, t.dl.extractLsb' 0 8, t.ol, t.pt, t.hcrc⟩
      dl := t.dl, ol := t.ol, pt := t.pt, hcrc := t.hcrc
      total := BitVec.ofNat 17 (t.data.length + t.opt.length + 1)
      dcnt := BitVec.ofNat 17 (t.data.length + t.opt.length + 1)
      dacc := crc8 (t.data ++ t.opt)
      fbuf := memSetList s.fbuf 0 (t.data ++ t.opt ++ [t.dcrc]) }
    feedAll (encodeFrame t) s = .next (
      if t.dataCrcOk then (verdict t.data).report t { s1 with cntValid := s1.cntValid + 1 }
      else { s1 with
        cntDataCrc := s1.cntDataCrc + 1
        cntError := s1.cntError + 1
        out := s1.out ++ [.dataCrcErr t (crc8 (t.data ++ t.opt))] })

/-- The sliding-window law: fed any byte stream from SEEKING_SYNC, the block goes on to the end, its events are exactly those of the scan, in order, and the discard counter grows by the scan's count. -/
def Obligations.StreamMatchesSlidingWindow : Prop :=
  ∀ (bytes : List Byte) (s : State), s.fsm = .seekingSync →
    ∃ s', feedAll bytes s = .next s' ∧
      s'.out = s.out ++ (scan bytes.length bytes).1 ∧
      s'.cntSyncDiscard = s.cntSyncDiscard + BitVec.ofNat 32 (scan bytes.length bytes).2

/-! ### The validator (42_validator.md) -/

/-- From any state that meets the invariant, the last byte of a frame: the running CRC is the CRC of the data and optional portions read from FBUF, whose lengths are the latched ones; every byte of the two has been written to FBUF, none is an unspecified one; so the two statements on a frame's end apply and one of them says what happens. -/
def Obligations.FrameEndCrcCoversPayload : Prop :=
  ∀ (s : State), Inv s → s.fsm = .readingData → s.dcnt.toNat + 1 = s.total.toNat →
    ∃ data opt : List Byte, data.length = s.dl.toNat ∧ opt.length = s.ol.toNat ∧
      loadBytes s.freeCount s.fbuf 0 s.dl.toNat = .ok data ∧ loadBytes s.freeCount s.fbuf s.dl.toNat s.ol.toNat = .ok opt ∧
      HoldsBytes s.fbuf (data ++ opt) ∧ s.total.toNat = s.dl.toNat + s.ol.toNat + 1 ∧ s.dacc = crc8 (data ++ opt)

/-- A telegram that any event but a CRC error carries has passed both CRC checks, in every state that meets the invariant. -/
def Obligations.ReportedTelegramsPassedBothCrcs : Prop :=
  ∀ (s s' : State) (b : Byte) (e : Event) (t : Telegram), Inv s → exec (.feed b) s = .next s' → s'.out = s.out ++ [e] →
    ((∃ r, e = .decoded t r) ∨ e = .lenMismatch t ∨ (∃ rorg func type raw, e = .unknown t rorg func type raw)) →
    t.lengthsFit = true ∧ t.headerCrcOk = true ∧ t.dataCrcOk = true

/-- CRC rejection: flip one bit of a well-formed frame at any place but the sync byte and feed it from SEEKING_SYNC. A flip in the header or its CRC gives one HeaderCrcError at the sixth byte; a flip further on gives one DataCrcError at the last byte and nothing else. -/
def Obligations.SingleBitFlipIsRejected : Prop :=
  ∀ (t : Telegram) (s : State) (i j : Nat), t.lengthsFit = true → t.headerCrcOk = true → t.dataCrcOk = true →
    s.fsm = .seekingSync → 1 ≤ i → i < (encodeFrame t).length → j < 8 →
    let flipped := (encodeFrame t).modify i (fun b => b ^^^ BitVec.twoPow 8 j)
    (i ≤ 5 → ∃ s' h0 h1 h2 h3 rx computed, feedAll (flipped.take 6) s = .next s' ∧
      s'.out = s.out ++ [.hdrCrcErr h0 h1 h2 h3 rx computed]) ∧
    (6 ≤ i → ∃ s' t' computed, feedAll flipped s = .next s' ∧ s'.out = s.out ++ [.dataCrcErr t' computed])

/-! ### Dispatch (43_unpack_dispatch.md) -/

/-- Dispatch is a function of the data portion alone: for every telegram and in every state it ends in the outcome of its data portion, reported, and in nothing else; packet type, optional portion and CRC bytes are only carried along in the event. -/
def Obligations.DispatchReportsVerdict : Prop :=
  ∀ (t : Telegram) (s : State), dispatchTelegram t s = .next ((verdict t.data).report t s)

/-- A telegram for which a row is selected runs as that row's instruction; one for which none is selected is a length mismatch. -/
def Obligations.DispatchRunsDecodedRow : Prop :=
  ∀ (t : Telegram) (s : State),
    (∀ i, decodeTelegram t = .ok i → dispatchTelegram t s = exec i s) ∧
    (∀ e, decodeTelegram t = .error e → dispatchTelegram t s = .next { s with
      cntLenMismatch := s.cntLenMismatch + 1
      cntError := s.cntError + 1
      out := s.out ++ [.lenMismatch t] })

/-- Exactly one outcome: one event, and exactly one of the four outcome counters grows, by 1. -/
def Obligations.DispatchEndsInOneOutcome : Prop :=
  ∀ (t : Telegram) (s : State), ∃ (s' : State) (e : Event) (c : Counter), dispatchTelegram t s = .next s' ∧
    s'.out = s.out ++ [e] ∧ c ∈ [Counter.decoded, .unknown, .lenMismatch, .decodeErr] ∧
    counter c s' = counter c s + 1 ∧
    ∀ c' ∈ [Counter.decoded, .unknown, .lenMismatch, .decodeErr], c' ≠ c → counter c' s' = counter c' s

/-- LengthMismatchError of every row: a telegram whose length the row does not admit is counted, reported and not unpacked. -/
def Obligations.RowLengthRuleRejects : Prop :=
  ∀ (t : Telegram) (s : State),
    let rejected : Result := .next { s with
      cntLenMismatch := s.cntLenMismatch + 1
      cntError := s.cntError + 1
      out := s.out ++ [.lenMismatch t] }
    (t.data.length ≠ 7 → exec (.rpsF6 t) s = rejected) ∧
    (t.data.length ≠ 7 → exec (.oneBsD50001 t) s = rejected) ∧
    (t.data.length ≠ 10 → exec (.fourBsA5 t) s = rejected) ∧
    (t.data.length < 6 → exec (.teachInD4 t) s = rejected) ∧
    (t.data.length ≠ 18 → exec (.vldD21441 t) s = rejected) ∧
    (t.data.length ≠ 18 → exec (.vldD21440 t) s = rejected) ∧
    (t.data.length < 11 → exec (.vldD20112 t) s = rejected) ∧
    (t.data.length < 9 → exec (.vldD20101 t) s = rejected) ∧
    (t.data.length < 9 → exec (.vldD20500 t) s = rejected) ∧
    (t.data.length < 9 → exec (.unknownD2 t) s = rejected) ∧
    (t.data.length < 1 → exec (.unknownRorg t) s = rejected)

/-- UnknownProfileError: the record holds the RORG, FUNC and TYPE for a D2 telegram and neither otherwise, and the raw data portion; `CNT_ERROR` is not touched. -/
def Obligations.UnknownRowsReportRecord : Prop :=
  (∀ (t : Telegram) (s : State) (func type : Byte) (d : List Byte), 6 ≤ d.length → t.data = 0xD2 :: func :: type :: d →
    exec (.unknownD2 t) s = .next { s with
      cntUnknown := s.cntUnknown + 1
      out := s.out ++ [.unknown t 0xD2 (some func) (some type) (0xD2 :: func :: type :: d)] }) ∧
  (∀ (t : Telegram) (s : State) (rorg : Byte) (d : List Byte), rorg ≠ 0xD2 → t.data = rorg :: d →
    exec (.unknownRorg t) s = .next { s with
      cntUnknown := s.cntUnknown + 1
      out := s.out ++ [.unknown t rorg none none (rorg :: d)] })

/-! ### Profiles (44_unpack_profiles.md) -/

/-- RPS: every action byte decodes, by the bit positions of decision D20, which the spec names as its own. -/
def Obligations.RpsDecodes : Prop :=
  ∀ (t : Telegram) (s : State) (a i3 i2 i1 i0 st : Byte), t.data = [0xF6, a, i3, i2, i1, i0, st] →
    exec (.rpsF6 t) s = .next { s with
      cntDecoded := s.cntDecoded + 1
      out := s.out ++ [.decoded t {
        profile := .rps
        tag := "F6"
        rorg := 0xF6
        senderId := BitVec.ofNat 32 (i3.toNat * 2 ^ 24 + i2.toNat * 2 ^ 16 + i1.toNat * 2 ^ 8 + i0.toNat)
        status := st
        fields := .rps {
          action := a
          button := BitVec.ofNat 2 (a.toNat / 64)
          buttonName := match a.toNat / 64 with | 0 => "button_a" | 1 => "button_b" | 2 => "button_c" | _ => "button_d"
          position := BitVec.ofNat 1 (a.toNat / 32 % 2)
          pressed := a.toNat / 16 % 2 == 1
          lowNibble := BitVec.ofNat 4 (a.toNat % 16)
          buttonAPressed := a.toNat / 16 % 2 == 1 && a.toNat / 64 == 0
          buttonBPressed := a.toNat / 16 % 2 == 1 && a.toNat / 64 == 1
          buttonCPressed := a.toNat / 16 % 2 == 1 && a.toNat / 64 == 2
          buttonDPressed := a.toNat / 16 % 2 == 1 && a.toNat / 64 == 3 } }] }

/-- 1BS: bit 0 of the state byte is the contact, 1 closed and 0 open; the other bits decide nothing. -/
def Obligations.OneBsDecodes : Prop :=
  ∀ (t : Telegram) (s : State) (x i3 i2 i1 i0 st : Byte), t.data = [0xD5, x, i3, i2, i1, i0, st] →
    exec (.oneBsD50001 t) s = .next { s with
      cntDecoded := s.cntDecoded + 1
      out := s.out ++ [.decoded t {
        profile := .oneBs
        tag := "D5-00-01"
        rorg := 0xD5
        senderId := BitVec.ofNat 32 (i3.toNat * 2 ^ 24 + i2.toNat * 2 ^ 16 + i1.toNat * 2 ^ 8 + i0.toNat)
        status := st
        fields := .oneBs { state := x, contact := BitVec.ofNat 1 (x.toNat % 2), closed := x.toNat % 2 == 1 } }] }

/-- 4BS: the four raw bytes and the learn bit, bit 3 of DB0 by decision D22, which the spec names as its own. -/
def Obligations.FourBsDecodes : Prop :=
  ∀ (t : Telegram) (s : State) (d3 d2 d1 d0 i3 i2 i1 i0 st : Byte), t.data = [0xA5, d3, d2, d1, d0, i3, i2, i1, i0, st] →
    exec (.fourBsA5 t) s = .next { s with
      cntDecoded := s.cntDecoded + 1
      out := s.out ++ [.decoded t {
        profile := .fourBs
        tag := "A5"
        rorg := 0xA5
        senderId := BitVec.ofNat 32 (i3.toNat * 2 ^ 24 + i2.toNat * 2 ^ 16 + i1.toNat * 2 ^ 8 + i0.toNat)
        status := st
        fields := .fourBs { db3 := d3, db2 := d2, db1 := d1, db0 := d0, lrn := BitVec.ofNat 1 (d0.toNat / 8 % 2) } }] }

/-- 4BS scaling: for any entry of `A5_SCALE`, the value is `min + raw·(max − min)/255` of the selected byte: `min` at raw 0, `max` at raw 255, an equal step between neighbouring raw values. -/
def Obligations.FourBsScaleIsLinear : Prop :=
  ∀ (sc : Config.A5Scale) (f g : FourBsFields),
    ((a5Raw sc.sel f).toNat = 0 → a5Value sc f = sc.min) ∧
    ((a5Raw sc.sel f).toNat = 255 → a5Value sc f = sc.max) ∧
    ((a5Raw sc.sel g).toNat = (a5Raw sc.sel f).toNat + 1 → a5Value sc g - a5Value sc f = (sc.max - sc.min) / 255)

/-- D2-14-41: temperature, humidity, illumination, acceleration and magnet, raw and as exact rationals; the byte positions and the acceleration map are decisions D23 to D25, which the spec names as its own. -/
def Obligations.Vld1441Decodes : Prop :=
  ∀ (t : Telegram) (s : State) (m x0 x1 x2 x3 x4 x5 x6 x7 x8 i3 i2 i1 i0 st : Byte),
    t.data = [0xD2, 0x14, 0x41, m, x0, x1, x2, x3, x4, x5, x6, x7, x8, i3, i2, i1, i0, st] →
    exec (.vldD21441 t) s = .next { s with
      cntDecoded := s.cntDecoded + 1
      out := s.out ++ [.decoded t {
        profile := .vld1441
        tag := "D2-14-41"
        rorg := 0xD2
        senderId := BitVec.ofNat 32 (i3.toNat * 2 ^ 24 + i2.toNat * 2 ^ 16 + i1.toNat * 2 ^ 8 + i0.toNat)
        status := st
        fields := .vld1441 {
          sensors := {
            mfgId := m
            tempRaw := BitVec.ofNat 10 (x0.toNat * 4 + x1.toNat / 64)
            humRaw := BitVec.ofNat 6 (x1.toNat % 64)
            illumRaw := BitVec.ofNat 16 (x2.toNat * 256 + x3.toNat)
            accXRaw := x4
            accYRaw := x5
            accZRaw := x6
            temperatureC := -40 + ((x0.toNat * 4 + x1.toNat / 64 : Nat) : Rat) * 100 / 1023
            humidityPercent := ((x1.toNat % 64 : Nat) : Rat) * 100 / 63
            illuminationLx := ((x2.toNat * 256 + x3.toNat : Nat) : Rat) * 100000 / 65535
            accXG := (2 * (x4.toNat : Rat) - 255) / 102
            accYG := (2 * (x5.toNat : Rat) - 255) / 102
            accZG := (2 * (x6.toNat : Rat) - 255) / 102 }
          magnet := BitVec.ofNat 1 (x8.toNat % 2)
          magnetOpen := x8.toNat % 2 == 1 } }] }

/-- D2-14-40: the fields of D2-14-41 without the magnet; the last profile byte is not interpreted. -/
def Obligations.Vld1440Decodes : Prop :=
  ∀ (t : Telegram) (s : State) (m x0 x1 x2 x3 x4 x5 x6 x7 x8 i3 i2 i1 i0 st : Byte),
    t.data = [0xD2, 0x14, 0x40, m, x0, x1, x2, x3, x4, x5, x6, x7, x8, i3, i2, i1, i0, st] →
    exec (.vldD21440 t) s = .next { s with
      cntDecoded := s.cntDecoded + 1
      out := s.out ++ [.decoded t {
        profile := .vld1440
        tag := "D2-14-40"
        rorg := 0xD2
        senderId := BitVec.ofNat 32 (i3.toNat * 2 ^ 24 + i2.toNat * 2 ^ 16 + i1.toNat * 2 ^ 8 + i0.toNat)
        status := st
        fields := .vld1440 {
          mfgId := m
          tempRaw := BitVec.ofNat 10 (x0.toNat * 4 + x1.toNat / 64)
          humRaw := BitVec.ofNat 6 (x1.toNat % 64)
          illumRaw := BitVec.ofNat 16 (x2.toNat * 256 + x3.toNat)
          accXRaw := x4
          accYRaw := x5
          accZRaw := x6
          temperatureC := -40 + ((x0.toNat * 4 + x1.toNat / 64 : Nat) : Rat) * 100 / 1023
          humidityPercent := ((x1.toNat % 64 : Nat) : Rat) * 100 / 63
          illuminationLx := ((x2.toNat * 256 + x3.toNat : Nat) : Rat) * 100000 / 65535
          accXG := (2 * (x4.toNat : Rat) - 255) / 102
          accYG := (2 * (x5.toNat : Rat) - 255) / 102
          accZG := (2 * (x6.toNat : Rat) - 255) / 102 } }] }

/-- D2-01-12: temperature and humidity as in D2-14-41, and any further profile bytes are not interpreted (decision D26, which the spec names as its own). -/
def Obligations.Vld0112Decodes : Prop :=
  ∀ (t : Telegram) (s : State) (m x0 x1 i3 i2 i1 i0 st : Byte) (more : List Byte),
    t.data = [0xD2, 0x01, 0x12, m, x0, x1] ++ more ++ [i3, i2, i1, i0, st] →
    exec (.vldD20112 t) s = .next { s with
      cntDecoded := s.cntDecoded + 1
      out := s.out ++ [.decoded t {
        profile := .vld0112
        tag := "D2-01-12"
        rorg := 0xD2
        senderId := BitVec.ofNat 32 (i3.toNat * 2 ^ 24 + i2.toNat * 2 ^ 16 + i1.toNat * 2 ^ 8 + i0.toNat)
        status := st
        fields := .vld0112 {
          mfgId := m
          tempRaw := BitVec.ofNat 10 (x0.toNat * 4 + x1.toNat / 64)
          humRaw := BitVec.ofNat 6 (x1.toNat % 64)
          temperatureC := -40 + ((x0.toNat * 4 + x1.toNat / 64 : Nat) : Rat) * 100 / 1023
          humidityPercent := ((x1.toNat % 64 : Nat) : Rat) * 100 / 63 } }] }

/-- D2-01-01 and D2-05-00: the profile bytes are reported raw, possibly none. -/
def Obligations.VldRawProfilesDecode : Prop :=
  ∀ (t : Telegram) (s : State) (m i3 i2 i1 i0 st : Byte) (raw : List Byte),
    (t.data = [0xD2, 0x01, 0x01, m] ++ raw ++ [i3, i2, i1, i0, st] →
      exec (.vldD20101 t) s = .next { s with
        cntDecoded := s.cntDecoded + 1
        out := s.out ++ [.decoded t {
          profile := .vld0101
          tag := "D2-01-01"
          rorg := 0xD2
          senderId := BitVec.ofNat 32 (i3.toNat * 2 ^ 24 + i2.toNat * 2 ^ 16 + i1.toNat * 2 ^ 8 + i0.toNat)
          status := st
          fields := .vld0101 { mfgId := m, raw := raw } }] }) ∧
    (t.data = [0xD2, 0x05, 0x00, m] ++ raw ++ [i3, i2, i1, i0, st] →
      exec (.vldD20500 t) s = .next { s with
        cntDecoded := s.cntDecoded + 1
        out := s.out ++ [.decoded t {
          profile := .vld0500
          tag := "D2-05-00"
          rorg := 0xD2
          senderId := BitVec.ofNat 32 (i3.toNat * 2 ^ 24 + i2.toNat * 2 ^ 16 + i1.toNat * 2 ^ 8 + i0.toNat)
          status := st
          fields := .vld0500 { mfgId := m, raw := raw } }] })

/-- Teach-in: the announcement bytes are reported raw, possibly none; no EEP is extracted (decision D27, which the spec names as its own). -/
def Obligations.TeachInDecodes : Prop :=
  ∀ (t : Telegram) (s : State) (i3 i2 i1 i0 st : Byte) (raw : List Byte),
    t.data = [0xD4] ++ raw ++ [i3, i2, i1, i0, st] →
    exec (.teachInD4 t) s = .next { s with
      cntDecoded := s.cntDecoded + 1
      out := s.out ++ [.decoded t {
        profile := .teachIn
        tag := "D4"
        rorg := 0xD4
        senderId := BitVec.ofNat 32 (i3.toNat * 2 ^ 24 + i2.toNat * 2 ^ 16 + i1.toNat * 2 ^ 8 + i0.toNat)
        status := st
        fields := .teachIn raw }] }

/-- The humidity and illumination maps: their end points exactly, and every raw value inside the stated range. -/
def Obligations.HumidityAndIlluminationMaps : Prop :=
  (∀ r : BitVec 6, hum r = (r.toNat : Rat) * 100 / 63 ∧ 0 ≤ hum r ∧ hum r ≤ 100) ∧
  (∀ r : BitVec 16, illum r = (r.toNat : Rat) * 100000 / 65535 ∧ 0 ≤ illum r ∧ illum r ≤ 100000) ∧
  hum 0 = 0 ∧ hum 63 = 100 ∧ illum 65535 = 100000

/-- The temperature and acceleration maps: their end points and the middle values the spec works out, and every raw value inside the stated range; no raw acceleration is exactly 0 g (decision D24, which the spec names as its own). -/
def Obligations.TemperatureAndAccelerationMaps : Prop :=
  (∀ r : BitVec 10, -40 ≤ temp r ∧ temp r ≤ 60) ∧ temp 0 = -40 ∧ temp 1023 = 60 ∧ temp 512 = 10280 / 1023 ∧
  (∀ r : Byte, -5 / 2 ≤ acc r ∧ acc r ≤ 5 / 2 ∧ acc r ≠ 0) ∧ acc 0 = -5 / 2 ∧ acc 255 = 5 / 2 ∧
  acc 127 = -1 / 102 ∧ acc 128 = 1 / 102

/-- Raw round trip: for every profile, a data portion built from raw field values, framed and fed from SEEKING_SYNC in any state, gives exactly one event, DECODED, with the reading of those bytes. With the statements on each row this gives the raw fields back. -/
def Obligations.FramedProfileRoundTrip : Prop :=
  ∀ (pt : Byte) (data opt : List Byte) (s : State) (p : Profile) (f : Fields), s.fsm = .seekingSync →
    data.length < 65536 → opt.length < 256 → verdict data = .decoded (reading p data f) →
    ∃ s', feedAll (encodeFrame (frameTelegram pt data opt)) s = .next s' ∧
      s'.out = s.out ++ [.decoded (frameTelegram pt data opt) (reading p data f)] ∧ s'.fsm = .seekingSync ∧
      s'.cntValid = s.cntValid + 1 ∧ s'.cntDecoded = s.cntDecoded + 1 ∧ s'.cntError = s.cntError

/-! ### Errors (60_exceptions.md) -/

/-- What a FEED counts is what its event says: with an event of a code, exactly the counters of that code's row grow, by 1 each; with no event, none but `CNT_SYNC_DISCARD` can change. The code numbers are decision D11, which the spec names as its own. -/
def Obligations.EventTellsItsCounters : Prop :=
  ∀ (s s' : State) (b : Byte) (c : Counter), exec (.feed b) s = .next s' → c ≠ .syncDiscard →
    (s'.out = s.out → counter c s' = counter c s) ∧
    ∀ e, s'.out = s.out ++ [e] →
      counter c s' = counter c s + (if c ∈ (match eventCode e with
        | 0 => [Counter.valid, .decoded]
        | 2 => [.hdrCrc, .error]
        | 3 => [.dataCrc, .error]
        | 4 => [.valid, .lenMismatch, .error]
        | 5 => [.valid, .unknown]
        | 6 => [.valid, .decodeErr, .error]
        | _ => []) then 1 else 0) ∧
      (eventCode e = match e with
        | .decoded _ _ => 0
        | .hdrCrcErr _ _ _ _ _ _ => 2
        | .dataCrcErr _ _ => 3
        | .lenMismatch _ => 4
        | .unknown _ _ _ _ _ => 5
        | .decodeErr _ _ => 6)

/-- No step of the block reports DecodeValueError or raises SourceUnavailable: the first has a path that no profile of the spec takes, the second is outside the block. -/
def Obligations.NoDecodeErrorEver : Prop :=
  ∀ (s s' : State), step s = .next s' →
    (s'.cntDecodeErr = s.cntDecodeErr ∨ s'.cntDecodeErr = 0) ∧
    ∀ t p, Event.decodeErr t p ∈ s'.out → Event.decodeErr t p ∈ s.out

/-! ### Reset (70_reset_and_hazards.md) -/

/-- A second RESET in a row changes no field that the first one specified, and no register word. -/
def Obligations.SecondResetChangesNothing : Prop :=
  ∀ (s s1 s2 : State) (x y : BitVec 9), exec (.reset x) s = .next s1 → exec (.reset y) s1 = .next s2 →
    { s2 with hbuf := s1.hbuf, freeCount := s1.freeCount } = s1 ∧
    ∀ a : Byte, regRead a s1 = 0 ∧ regRead a s2 = 0

/-! ### The frame buffer (10_state.md, 20_memory.md) -/

/-- FBUF is a byte array indexed 0 to 65790: every index reads a byte in every state, written or not (what an unwritten one reads as is free, log 7); a write is read back at its index and changes no other; right after a RESET nothing that was written before is held. An index that does not exist is the model's own fault (log 12). -/
def Obligations.FbufIsByteArray : Prop :=
  (∀ (s : State) (i : Nat) (b : Byte), i < 65791 →
    (∃ c, loadByte s.freeCount s.fbuf i = .ok c) ∧
    ∃ s', storeByte i b s = .next s' ∧ loadByte s'.freeCount s'.fbuf i = .ok b ∧
      ∀ j : Nat, j ≠ i → loadByte s'.freeCount s'.fbuf j = loadByte s.freeCount s.fbuf j) ∧
  (∀ (s : State) (i : Nat) (b : Byte), 65791 ≤ i →
    storeByte i b s = .fault (.fbufIndex i) ∧ loadByte s.freeCount s.fbuf i = .error (.fbufIndex i)) ∧
  ∀ (s s' : State) (x : BitVec 9), exec (.reset x) s = .next s' → ∀ i : Nat, memGet s'.fbuf i = none
end

