-- ==== Sys2Proof/Laws/Bits.lean ====
section
/-! SUPPORT. A 16-bit value and its two bytes, and the lengths of a telegram that fits its header (30_encoding.md R75). -/
namespace Sys2Proof.Machine

theorem append_toNat (a b : Byte) : (a ++ b).toNat = a.toNat * 256 + b.toNat := by
  have hb := b.isLt
  rw [BitVec.toNat_append, ← Nat.shiftLeft_add_eq_or_of_lt hb, Nat.shiftLeft_eq]

theorem extract_append_high (a b : Byte) : (a ++ b).extractLsb' 8 8 = a := by
  have ha := a.isLt
  have hb := b.isLt
  apply BitVec.eq_of_toNat_eq
  rw [BitVec.extractLsb'_toNat, append_toNat, Nat.shiftRight_eq_div_pow]
  omega

theorem extract_append_low (a b : Byte) : (a ++ b).extractLsb' 0 8 = b := by
  have hb := b.isLt
  apply BitVec.eq_of_toNat_eq
  rw [BitVec.extractLsb'_toNat, append_toNat, Nat.shiftRight_eq_div_pow]
  omega

theorem append_extract (x : BitVec 16) : x.extractLsb' 8 8 ++ x.extractLsb' 0 8 = x := by
  have hx := x.isLt
  apply BitVec.eq_of_toNat_eq
  rw [append_toNat, BitVec.extractLsb'_toNat, BitVec.extractLsb'_toNat, Nat.shiftRight_eq_div_pow, Nat.shiftRight_eq_div_pow]
  omega

theorem dl_toNat {t : Telegram} (h : t.lengthsFit = true) : t.dl.toNat = t.data.length := by
  simp only [Telegram.lengthsFit, Bool.and_eq_true, decide_eq_true_eq] at h
  rw [Telegram.dl, BitVec.toNat_ofNat, Nat.mod_eq_of_lt h.1]

theorem ol_toNat {t : Telegram} (h : t.lengthsFit = true) : t.ol.toNat = t.opt.length := by
  simp only [Telegram.lengthsFit, Bool.and_eq_true, decide_eq_true_eq] at h
  rw [Telegram.ol, BitVec.toNat_ofNat, Nat.mod_eq_of_lt h.2]

/-- The telegram that `FRAME` sends passes both CRC checks (30_encoding.md R97). -/
theorem frameTelegram_headerCrcOk (pt : Byte) (data opt : List Byte) : (frameTelegram pt data opt).headerCrcOk = true := by
  simp [Telegram.headerCrcOk, frameTelegram, Telegram.header, Telegram.dl, Telegram.ol]

theorem frameTelegram_dataCrcOk (pt : Byte) (data opt : List Byte) : (frameTelegram pt data opt).dataCrcOk = true := by
  simp [Telegram.dataCrcOk, frameTelegram]

end Sys2Proof.Machine
end

