-- ==== Sys2Proof/Laws/Crc.lean ====
section
/-! SUPPORT. The CRC-8 as a fold: append, linearity of one update, and that an update loses nothing (40_crc8.md R101, R103, R105). -/
namespace Sys2Proof.Machine

theorem crc8_eq_foldl (xs : List Byte) : crc8 xs = xs.foldl crc8Update 0 := by
  simp [crc8, Config.crcInit, Config.crcXorOut]

/-- The running register after one more byte (40_crc8.md R103). -/
theorem crc8_snoc (xs : List Byte) (b : Byte) : crc8Update (crc8 xs) b = crc8 (xs ++ [b]) := by
  simp [crc8_eq_foldl]

theorem crc8_append (xs ys : List Byte) : crc8 (xs ++ ys) = ys.foldl crc8Update (crc8 xs) := by
  simp [crc8_eq_foldl]

/-- An update depends on the register and the byte through their exclusive-or only (40_crc8.md R102). -/
theorem crc8Update_xor (c b : Byte) : crc8Update c b = crc8Update 0 (c ^^^ b) := by simp [crc8Update]

theorem crc8Shift_xor (a b : Byte) : crc8Shift (a ^^^ b) = crc8Shift a ^^^ crc8Shift b := by
  simp only [crc8Shift, BitVec.getLsbD_xor, BitVec.shiftLeft_xor_distrib]
  have both (x y p : Byte) : x ^^^ y = x ^^^ p ^^^ (y ^^^ p) := by
    rw [show x ^^^ p ^^^ (y ^^^ p) = x ^^^ y ^^^ (p ^^^ p) by ac_rfl, BitVec.xor_self, BitVec.xor_zero]
  cases a.getLsbD 7 <;> cases b.getLsbD 7 <;>
    simp only [Bool.xor_true, Bool.xor_false, Bool.not_true, Bool.not_false, Bool.false_eq_true, if_true, if_false]
  · ac_rfl
  · ac_rfl
  · exact both _ _ _

theorem crc8Update_linear (c d a b : Byte) : crc8Update (c ^^^ d) (a ^^^ b) = crc8Update c a ^^^ crc8Update d b := by
  have swap : c ^^^ d ^^^ (a ^^^ b) = (c ^^^ a) ^^^ (d ^^^ b) := by ac_rfl
  unfold crc8Update
  rw [swap]
  generalize c ^^^ a = x
  generalize d ^^^ b = y
  simp only [crc8Shift_xor]

theorem crc8Update_eq_zero : ∀ x : Byte, crc8Update 0 x = 0 ↔ x = 0 := by decide +kernel

@[simp] theorem crc8Update_zero_zero : crc8Update 0#8 0#8 = 0#8 := (crc8Update_eq_zero 0).2 rfl

theorem foldl_crc8Update_linear (xs ys : List Byte) (h : xs.length = ys.length) (c d : Byte) :
    (xorBytes xs ys).foldl crc8Update (c ^^^ d) = xs.foldl crc8Update c ^^^ ys.foldl crc8Update d := by
  induction xs generalizing ys c d with
  | nil => cases ys with
    | nil => rfl
    | cons y ys => simp at h
  | cons x xs ih => cases ys with
    | nil => simp at h
    | cons y ys =>
      simp only [xorBytes, List.zipWith_cons_cons, List.foldl_cons, crc8Update_linear]
      exact ih ys (by simpa using h) _ _

/-- Bytes of zero turn a register of zero into itself and no other register into zero. -/
theorem foldl_zeros_eq_zero (n : Nat) (c : Byte) : (List.replicate n 0).foldl crc8Update c = 0 ↔ c = 0 := by
  induction n generalizing c with
  | zero => simp
  | succ n ih => rw [List.replicate_succ, List.foldl_cons, ih, crc8Update_xor, crc8Update_eq_zero]; simp

end Sys2Proof.Machine
end

