-- ==== Sys2Proof/Laws/DispatchMap.lean ====
section
/-! SUPPORT. The dispatch map read byte by byte: when a key matches a row, and which rows exclude each other (30_encoding.md R88 to R90). -/
namespace Sys2Proof.Machine

theorem append_eq_append {n : Nat} {a c : Byte} {b d : BitVec n} : a ++ b = c ++ d ↔ a = c ∧ b = d := by
  constructor
  · intro h
    have low : ∀ i, i < n → b.getLsbD i = d.getLsbD i := fun i hi => by
      have := congrArg (fun v => v.getLsbD i) h
      simpa [BitVec.getLsbD_append, hi] using this
    have high : ∀ i, i < 8 → a.getLsbD i = c.getLsbD i := fun i _ => by
      have := congrArg (fun v => v.getLsbD (n + i)) h
      simpa [BitVec.getLsbD_append] using this
    exact ⟨BitVec.eq_of_getLsbD_eq high, BitVec.eq_of_getLsbD_eq low⟩
  · rintro ⟨rfl, rfl⟩; rfl

theorem key_eq_key {x y z x' y' z' : Byte} : x ++ y ++ z = x' ++ y' ++ z' ↔ x = x' ∧ y = y' ∧ z = z' := by
  constructor
  · intro h
    have hz : z = z' := by
      apply BitVec.eq_of_getLsbD_eq; intro i hi
      have := congrArg (fun v => v.getLsbD i) h
      rwa [BitVec.getLsbD_append, if_pos hi, BitVec.getLsbD_append, if_pos hi] at this
    subst hz
    exact ⟨(append_eq_append.1 ((BitVec.append_left_inj z).1 h)).1, (append_eq_append.1 ((BitVec.append_left_inj z).1 h)).2, rfl⟩
  · rintro ⟨rfl, rfl, rfl⟩; rfl

/-- A row of mask 0xFF0000 looks at the RORG byte only. -/
theorem key_and_rorgMask (x y z p : Byte) : ((x ++ y ++ z) &&& 0xFF0000#24 == p ++ 0x00#8 ++ 0x00#8) = (x == p) := by
  have e : (0xFF0000#24 : BitVec 24) = 0xFF#8 ++ 0x00#8 ++ 0x00#8 := rfl
  rw [e, BitVec.and_append, BitVec.and_append, Bool.eq_iff_iff, beq_iff_eq, beq_iff_eq, key_eq_key]
  have : x &&& 0xFF#8 = x := BitVec.and_allOnes (x := x)
  simp [this]

/-- A row of mask 0xFFFFFF looks at all three bytes. -/
theorem key_and_fullMask (x y z p q r : Byte) : ((x ++ y ++ z) &&& 0xFFFFFF#24 == p ++ q ++ r) = (x == p && y == q && z == r) := by
  have : (x ++ y ++ z) &&& 0xFFFFFF#24 = x ++ y ++ z := BitVec.and_allOnes (x := x ++ y ++ z)
  rw [this, Bool.eq_iff_iff]
  simp [key_eq_key, and_assoc]

/-- The rows of the map as conditions on the key's three bytes (30_encoding.md R90). -/
theorem firstRow_key (x y z : Byte) : firstRow (x ++ y ++ z) =
    if x = 0xF6 then .rps else if x = 0xD5 then .oneBs else if x = 0xA5 then .fourBs else if x = 0xD4 then .teachIn
    else if x = 0xD2 then
      if y = 0x14 ∧ z = 0x41 then .vld1441 else if y = 0x14 ∧ z = 0x40 then .vld1440
      else if y = 0x01 ∧ z = 0x12 then .vld0112 else if y = 0x01 ∧ z = 0x01 then .vld0101
      else if y = 0x05 ∧ z = 0x00 then .vld0500 else .unknownD2
    else .unknownRorg := by
  have h1 : rowMatches (x ++ y ++ z) .rps = (x == 0xF6) := key_and_rorgMask x y z 0xF6
  have h2 : rowMatches (x ++ y ++ z) .oneBs = (x == 0xD5) := key_and_rorgMask x y z 0xD5
  have h3 : rowMatches (x ++ y ++ z) .fourBs = (x == 0xA5) := key_and_rorgMask x y z 0xA5
  have h4 : rowMatches (x ++ y ++ z) .teachIn = (x == 0xD4) := key_and_rorgMask x y z 0xD4
  have h5 : rowMatches (x ++ y ++ z) .vld1441 = (x == 0xD2 && y == 0x14 && z == 0x41) := key_and_fullMask x y z 0xD2 0x14 0x41
  have h6 : rowMatches (x ++ y ++ z) .vld1440 = (x == 0xD2 && y == 0x14 && z == 0x40) := key_and_fullMask x y z 0xD2 0x14 0x40
  have h7 : rowMatches (x ++ y ++ z) .vld0112 = (x == 0xD2 && y == 0x01 && z == 0x12) := key_and_fullMask x y z 0xD2 0x01 0x12
  have h8 : rowMatches (x ++ y ++ z) .vld0101 = (x == 0xD2 && y == 0x01 && z == 0x01) := key_and_fullMask x y z 0xD2 0x01 0x01
  have h9 : rowMatches (x ++ y ++ z) .vld0500 = (x == 0xD2 && y == 0x05 && z == 0x00) := key_and_fullMask x y z 0xD2 0x05 0x00
  have h10 : rowMatches (x ++ y ++ z) .unknownD2 = (x == 0xD2) := key_and_rorgMask x y z 0xD2
  have h11 : rowMatches (x ++ y ++ z) .unknownRorg = true := by simp [rowMatches, rowMask, rowPattern]
  have find_cons (r : Row) (rs : List Row) (k : BitVec 24) :
      ((r :: rs).find? (rowMatches k)).getD .unknownRorg =
        if rowMatches k r = true then r else (rs.find? (rowMatches k)).getD .unknownRorg := by
    rw [List.find?_cons]; cases rowMatches k r <;> rfl
  unfold firstRow dispatchOrder
  simp only [find_cons, h1, h2, h3, h4, h5, h6, h7, h8, h9, h10, h11, List.find?_nil, beq_iff_eq, Bool.and_eq_true, if_true]
  by_cases hx : x = 0xD2
  · subst hx; simp only [true_and]; rfl
  · simp only [hx, false_and, if_false]

/-- The row of a data portion of three bytes or more. -/
theorem selectRow_cons (x y z : Byte) (d : List Byte) :
    selectRow (x :: y :: z :: d) = if x = 0xD2 ∧ d.length < 6 then .error .shortVld else .ok (firstRow (x ++ y ++ z)) := by
  unfold selectRow
  rw [if_neg (by simp)]
  have : d.length + 1 + 1 + 1 < 9 ↔ d.length < 6 := by omega
  simp [byteAt, dispatchKey, this]

/-- The row of any data portion, by its length and its first three bytes (43_unpack_dispatch.md R181 to R183). -/
theorem selectRow_eq (d : List Byte) : selectRow d =
    if d.length = 0 then .error .emptyData
    else if byteAt d 0 = 0xF6 then .ok .rps else if byteAt d 0 = 0xD5 then .ok .oneBs else if byteAt d 0 = 0xA5 then .ok .fourBs
    else if byteAt d 0 = 0xD4 then .ok .teachIn
    else if byteAt d 0 = 0xD2 then
      if d.length < 9 then .error .shortVld
      else if byteAt d 1 = 0x14 ∧ byteAt d 2 = 0x41 then .ok .vld1441 else if byteAt d 1 = 0x14 ∧ byteAt d 2 = 0x40 then .ok .vld1440
      else if byteAt d 1 = 0x01 ∧ byteAt d 2 = 0x12 then .ok .vld0112 else if byteAt d 1 = 0x01 ∧ byteAt d 2 = 0x01 then .ok .vld0101
      else if byteAt d 1 = 0x05 ∧ byteAt d 2 = 0x00 then .ok .vld0500 else .ok .unknownD2
    else .ok .unknownRorg := by
  unfold selectRow dispatchKey
  rw [firstRow_key]
  by_cases h0 : d.length = 0
  · rw [if_pos h0, if_pos h0]
  rw [if_neg h0, if_neg h0]
  by_cases hx : byteAt d 0 = 0xD2
  · have e1 : ¬ (0xD2#8 : Byte) = 0xF6 := by decide
    have e2 : ¬ (0xD2#8 : Byte) = 0xD5 := by decide
    have e3 : ¬ (0xD2#8 : Byte) = 0xA5 := by decide
    have e4 : ¬ (0xD2#8 : Byte) = 0xD4 := by decide
    by_cases hl : d.length < 9
    · rw [if_pos ⟨hx, hl⟩, hx]; simp only [if_true, if_pos hl]; rfl
    · rw [if_neg (fun h => hl h.2), hx]
      have h2 : 2 ≤ d.length := by omega
      have h3 : 3 ≤ d.length := by omega
      simp only [if_true, if_neg hl, if_pos h2, if_pos h3]
      by_cases h1 : byteAt d 1 = 0x14 ∧ byteAt d 2 = 0x41; · rw [if_pos h1, if_pos h1]; rfl
      rw [if_neg h1, if_neg h1]
      by_cases h1 : byteAt d 1 = 0x14 ∧ byteAt d 2 = 0x40; · rw [if_pos h1, if_pos h1]; rfl
      rw [if_neg h1, if_neg h1]
      by_cases h1 : byteAt d 1 = 0x01 ∧ byteAt d 2 = 0x12; · rw [if_pos h1, if_pos h1]; rfl
      rw [if_neg h1, if_neg h1]
      by_cases h1 : byteAt d 1 = 0x01 ∧ byteAt d 2 = 0x01; · rw [if_pos h1, if_pos h1]; rfl
      rw [if_neg h1, if_neg h1]
      by_cases h1 : byteAt d 1 = 0x05 ∧ byteAt d 2 = 0x00; · rw [if_pos h1, if_pos h1]; rfl
      rw [if_neg h1, if_neg h1]; rfl
  · simp only [hx, false_and, if_false]
    by_cases h1 : byteAt d 0 = 0xF6; · rw [if_pos h1, if_pos h1]
    rw [if_neg h1, if_neg h1]
    by_cases h2 : byteAt d 0 = 0xD5; · rw [if_pos h2, if_pos h2]
    rw [if_neg h2, if_neg h2]
    by_cases h3 : byteAt d 0 = 0xA5; · rw [if_pos h3, if_pos h3]
    rw [if_neg h3, if_neg h3]
    by_cases h4 : byteAt d 0 = 0xD4; · rw [if_pos h4, if_pos h4]
    rw [if_neg h4, if_neg h4]

end Sys2Proof.Machine
end

