-- ==== Sys2Proof/Laws/State.lean ====
section
/-! SUPPORT. One lemma for each field under each shared update of the state, and what `raise` and the outcomes of a telegram do, as record updates. -/
namespace Sys2Proof.Machine

/-! ### `inc` -/

@[simp] theorem inc_fsm (c : Counter) (s : State) : (inc c s).fsm = s.fsm := by cases c <;> rfl
@[simp] theorem inc_hcnt (c : Counter) (s : State) : (inc c s).hcnt = s.hcnt := by cases c <;> rfl
@[simp] theorem inc_hbuf (c : Counter) (s : State) : (inc c s).hbuf = s.hbuf := by cases c <;> rfl
@[simp] theorem inc_dl (c : Counter) (s : State) : (inc c s).dl = s.dl := by cases c <;> rfl
@[simp] theorem inc_ol (c : Counter) (s : State) : (inc c s).ol = s.ol := by cases c <;> rfl
@[simp] theorem inc_pt (c : Counter) (s : State) : (inc c s).pt = s.pt := by cases c <;> rfl
@[simp] theorem inc_hcrc (c : Counter) (s : State) : (inc c s).hcrc = s.hcrc := by cases c <;> rfl
@[simp] theorem inc_total (c : Counter) (s : State) : (inc c s).total = s.total := by cases c <;> rfl
@[simp] theorem inc_dcnt (c : Counter) (s : State) : (inc c s).dcnt = s.dcnt := by cases c <;> rfl
@[simp] theorem inc_dacc (c : Counter) (s : State) : (inc c s).dacc = s.dacc := by cases c <;> rfl
@[simp] theorem inc_fbuf (c : Counter) (s : State) : (inc c s).fbuf = s.fbuf := by cases c <;> rfl
@[simp] theorem inc_out (c : Counter) (s : State) : (inc c s).out = s.out := by cases c <;> rfl
@[simp] theorem inc_readData (c : Counter) (s : State) : (inc c s).readData = s.readData := by cases c <;> rfl
@[simp] theorem inc_requests (c : Counter) (s : State) : (inc c s).requests = s.requests := by cases c <;> rfl
@[simp] theorem inc_freeCount (c : Counter) (s : State) : (inc c s).freeCount = s.freeCount := by cases c <;> rfl

@[simp] theorem counter_inc_same (c : Counter) (s : State) : counter c (inc c s) = counter c s + 1 := by cases c <;> rfl

theorem counter_inc_other (c c' : Counter) (s : State) (h : c' ≠ c) : counter c' (inc c s) = counter c' s := by
  cases c <;> cases c' <;> first | rfl | exact absurd rfl h

/-! ### `emit` -/

@[simp] theorem emit_fsm (e : Event) (s : State) : (emit e s).fsm = s.fsm := rfl
@[simp] theorem emit_hcnt (e : Event) (s : State) : (emit e s).hcnt = s.hcnt := rfl
@[simp] theorem emit_hbuf (e : Event) (s : State) : (emit e s).hbuf = s.hbuf := rfl
@[simp] theorem emit_dl (e : Event) (s : State) : (emit e s).dl = s.dl := rfl
@[simp] theorem emit_ol (e : Event) (s : State) : (emit e s).ol = s.ol := rfl
@[simp] theorem emit_pt (e : Event) (s : State) : (emit e s).pt = s.pt := rfl
@[simp] theorem emit_hcrc (e : Event) (s : State) : (emit e s).hcrc = s.hcrc := rfl
@[simp] theorem emit_total (e : Event) (s : State) : (emit e s).total = s.total := rfl
@[simp] theorem emit_dcnt (e : Event) (s : State) : (emit e s).dcnt = s.dcnt := rfl
@[simp] theorem emit_dacc (e : Event) (s : State) : (emit e s).dacc = s.dacc := rfl
@[simp] theorem emit_fbuf (e : Event) (s : State) : (emit e s).fbuf = s.fbuf := rfl
@[simp] theorem emit_cntSyncDiscard (e : Event) (s : State) : (emit e s).cntSyncDiscard = s.cntSyncDiscard := rfl
@[simp] theorem emit_cntHdrCrc (e : Event) (s : State) : (emit e s).cntHdrCrc = s.cntHdrCrc := rfl
@[simp] theorem emit_cntDataCrc (e : Event) (s : State) : (emit e s).cntDataCrc = s.cntDataCrc := rfl
@[simp] theorem emit_cntValid (e : Event) (s : State) : (emit e s).cntValid = s.cntValid := rfl
@[simp] theorem emit_cntLenMismatch (e : Event) (s : State) : (emit e s).cntLenMismatch = s.cntLenMismatch := rfl
@[simp] theorem emit_cntUnknown (e : Event) (s : State) : (emit e s).cntUnknown = s.cntUnknown := rfl
@[simp] theorem emit_cntDecodeErr (e : Event) (s : State) : (emit e s).cntDecodeErr = s.cntDecodeErr := rfl
@[simp] theorem emit_cntDecoded (e : Event) (s : State) : (emit e s).cntDecoded = s.cntDecoded := rfl
@[simp] theorem emit_cntError (e : Event) (s : State) : (emit e s).cntError = s.cntError := rfl
@[simp] theorem emit_readData (e : Event) (s : State) : (emit e s).readData = s.readData := rfl
@[simp] theorem emit_requests (e : Event) (s : State) : (emit e s).requests = s.requests := rfl
@[simp] theorem emit_freeCount (e : Event) (s : State) : (emit e s).freeCount = s.freeCount := rfl
@[simp] theorem emit_out (e : Event) (s : State) : (emit e s).out = s.out ++ [e] := rfl
@[simp] theorem counter_emit (c : Counter) (e : Event) (s : State) : counter c (emit e s) = counter c s := by cases c <;> rfl

/-! ### `beginTransaction` and `offer` -/

@[simp] theorem beginTransaction_fsm (s : State) : (beginTransaction s).fsm = s.fsm := rfl
@[simp] theorem beginTransaction_hcnt (s : State) : (beginTransaction s).hcnt = s.hcnt := rfl
@[simp] theorem beginTransaction_hbuf (s : State) : (beginTransaction s).hbuf = s.hbuf := rfl
@[simp] theorem beginTransaction_dl (s : State) : (beginTransaction s).dl = s.dl := rfl
@[simp] theorem beginTransaction_ol (s : State) : (beginTransaction s).ol = s.ol := rfl
@[simp] theorem beginTransaction_pt (s : State) : (beginTransaction s).pt = s.pt := rfl
@[simp] theorem beginTransaction_hcrc (s : State) : (beginTransaction s).hcrc = s.hcrc := rfl
@[simp] theorem beginTransaction_total (s : State) : (beginTransaction s).total = s.total := rfl
@[simp] theorem beginTransaction_dcnt (s : State) : (beginTransaction s).dcnt = s.dcnt := rfl
@[simp] theorem beginTransaction_dacc (s : State) : (beginTransaction s).dacc = s.dacc := rfl
@[simp] theorem beginTransaction_fbuf (s : State) : (beginTransaction s).fbuf = s.fbuf := rfl
@[simp] theorem beginTransaction_cntSyncDiscard (s : State) : (beginTransaction s).cntSyncDiscard = s.cntSyncDiscard := rfl
@[simp] theorem beginTransaction_cntHdrCrc (s : State) : (beginTransaction s).cntHdrCrc = s.cntHdrCrc := rfl
@[simp] theorem beginTransaction_cntDataCrc (s : State) : (beginTransaction s).cntDataCrc = s.cntDataCrc := rfl
@[simp] theorem beginTransaction_cntValid (s : State) : (beginTransaction s).cntValid = s.cntValid := rfl
@[simp] theorem beginTransaction_cntLenMismatch (s : State) : (beginTransaction s).cntLenMismatch = s.cntLenMismatch := rfl
@[simp] theorem beginTransaction_cntUnknown (s : State) : (beginTransaction s).cntUnknown = s.cntUnknown := rfl
@[simp] theorem beginTransaction_cntDecodeErr (s : State) : (beginTransaction s).cntDecodeErr = s.cntDecodeErr := rfl
@[simp] theorem beginTransaction_cntDecoded (s : State) : (beginTransaction s).cntDecoded = s.cntDecoded := rfl
@[simp] theorem beginTransaction_cntError (s : State) : (beginTransaction s).cntError = s.cntError := rfl
@[simp] theorem beginTransaction_requests (s : State) : (beginTransaction s).requests = s.requests := rfl
@[simp] theorem beginTransaction_freeCount (s : State) : (beginTransaction s).freeCount = s.freeCount := rfl
@[simp] theorem beginTransaction_out (s : State) : (beginTransaction s).out = [] := rfl
@[simp] theorem beginTransaction_readData (s : State) : (beginTransaction s).readData = none := rfl
@[simp] theorem offer_fsm (r : Request) (s : State) : (offer r s).fsm = s.fsm := rfl
@[simp] theorem offer_hcnt (r : Request) (s : State) : (offer r s).hcnt = s.hcnt := rfl
@[simp] theorem offer_hbuf (r : Request) (s : State) : (offer r s).hbuf = s.hbuf := rfl
@[simp] theorem offer_dl (r : Request) (s : State) : (offer r s).dl = s.dl := rfl
@[simp] theorem offer_ol (r : Request) (s : State) : (offer r s).ol = s.ol := rfl
@[simp] theorem offer_pt (r : Request) (s : State) : (offer r s).pt = s.pt := rfl
@[simp] theorem offer_hcrc (r : Request) (s : State) : (offer r s).hcrc = s.hcrc := rfl
@[simp] theorem offer_total (r : Request) (s : State) : (offer r s).total = s.total := rfl
@[simp] theorem offer_dcnt (r : Request) (s : State) : (offer r s).dcnt = s.dcnt := rfl
@[simp] theorem offer_dacc (r : Request) (s : State) : (offer r s).dacc = s.dacc := rfl
@[simp] theorem offer_fbuf (r : Request) (s : State) : (offer r s).fbuf = s.fbuf := rfl
@[simp] theorem offer_cntSyncDiscard (r : Request) (s : State) : (offer r s).cntSyncDiscard = s.cntSyncDiscard := rfl
@[simp] theorem offer_cntHdrCrc (r : Request) (s : State) : (offer r s).cntHdrCrc = s.cntHdrCrc := rfl
@[simp] theorem offer_cntDataCrc (r : Request) (s : State) : (offer r s).cntDataCrc = s.cntDataCrc := rfl
@[simp] theorem offer_cntValid (r : Request) (s : State) : (offer r s).cntValid = s.cntValid := rfl
@[simp] theorem offer_cntLenMismatch (r : Request) (s : State) : (offer r s).cntLenMismatch = s.cntLenMismatch := rfl
@[simp] theorem offer_cntUnknown (r : Request) (s : State) : (offer r s).cntUnknown = s.cntUnknown := rfl
@[simp] theorem offer_cntDecodeErr (r : Request) (s : State) : (offer r s).cntDecodeErr = s.cntDecodeErr := rfl
@[simp] theorem offer_cntDecoded (r : Request) (s : State) : (offer r s).cntDecoded = s.cntDecoded := rfl
@[simp] theorem offer_cntError (r : Request) (s : State) : (offer r s).cntError = s.cntError := rfl
@[simp] theorem offer_out (r : Request) (s : State) : (offer r s).out = s.out := rfl
@[simp] theorem offer_readData (r : Request) (s : State) : (offer r s).readData = s.readData := rfl
@[simp] theorem offer_freeCount (r : Request) (s : State) : (offer r s).freeCount = s.freeCount := rfl
@[simp] theorem offer_requests (r : Request) (s : State) : (offer r s).requests = r :: s.requests := rfl

/-! ### `raise`, cause by cause (60_exceptions.md R260, R262) -/

theorem raise_frameSyncError (s : State) :
    raise .frameSyncError none s = { s with cntSyncDiscard := s.cntSyncDiscard + 1 } := rfl

theorem raise_headerCrcError (e : Event) (s : State) :
    raise .headerCrcError (some e) s =
      { s with cntHdrCrc := s.cntHdrCrc + 1, cntError := s.cntError + 1, out := s.out ++ [e] } := rfl

theorem rejectHeader_eq (s : State) :
    rejectHeader s = { s with
      cntHdrCrc := s.cntHdrCrc + 1, cntError := s.cntError + 1, hcnt := 0, fsm := .seekingSync
      out := s.out ++ [.hdrCrcErr s.hbuf.b0 s.hbuf.b1 s.hbuf.b2 s.hbuf.b3 s.hbuf.b4 (headerCalc s.hbuf)] } := rfl

theorem raise_dataCrcError (e : Event) (s : State) :
    raise .dataCrcError (some e) s =
      { s with cntDataCrc := s.cntDataCrc + 1, cntError := s.cntError + 1, out := s.out ++ [e] } := rfl

theorem lengthMismatch_eq (t : Telegram) (s : State) : lengthMismatch t s = Verdict.lenMismatch.report t s := rfl

theorem raise_unknownProfileError (e : Event) (s : State) :
    raise .unknownProfileError (some e) s = { s with cntUnknown := s.cntUnknown + 1, out := s.out ++ [e] } := rfl

theorem raise_decodeValueError (e : Event) (s : State) :
    raise .decodeValueError (some e) s =
      { s with cntDecodeErr := s.cntDecodeErr + 1, cntError := s.cntError + 1, out := s.out ++ [e] } := rfl

theorem finishProfile_some (p : Profile) (t : Telegram) (f : Fields) (s : State) :
    finishProfile p t (some f) s = (Verdict.decoded (reading p t.data f)).report t s := rfl

/-! ### `Verdict.report` -/

@[simp] theorem report_fsm (v : Verdict) (t : Telegram) (s : State) : (v.report t s).fsm = s.fsm := by cases v <;> rfl
@[simp] theorem report_hcnt (v : Verdict) (t : Telegram) (s : State) : (v.report t s).hcnt = s.hcnt := by cases v <;> rfl
@[simp] theorem report_hbuf (v : Verdict) (t : Telegram) (s : State) : (v.report t s).hbuf = s.hbuf := by cases v <;> rfl
@[simp] theorem report_dl (v : Verdict) (t : Telegram) (s : State) : (v.report t s).dl = s.dl := by cases v <;> rfl
@[simp] theorem report_ol (v : Verdict) (t : Telegram) (s : State) : (v.report t s).ol = s.ol := by cases v <;> rfl
@[simp] theorem report_pt (v : Verdict) (t : Telegram) (s : State) : (v.report t s).pt = s.pt := by cases v <;> rfl
@[simp] theorem report_hcrc (v : Verdict) (t : Telegram) (s : State) : (v.report t s).hcrc = s.hcrc := by cases v <;> rfl
@[simp] theorem report_total (v : Verdict) (t : Telegram) (s : State) : (v.report t s).total = s.total := by cases v <;> rfl
@[simp] theorem report_dcnt (v : Verdict) (t : Telegram) (s : State) : (v.report t s).dcnt = s.dcnt := by cases v <;> rfl
@[simp] theorem report_dacc (v : Verdict) (t : Telegram) (s : State) : (v.report t s).dacc = s.dacc := by cases v <;> rfl
@[simp] theorem report_fbuf (v : Verdict) (t : Telegram) (s : State) : (v.report t s).fbuf = s.fbuf := by cases v <;> rfl
@[simp] theorem report_cntSyncDiscard (v : Verdict) (t : Telegram) (s : State) : (v.report t s).cntSyncDiscard = s.cntSyncDiscard := by cases v <;> rfl
@[simp] theorem report_cntHdrCrc (v : Verdict) (t : Telegram) (s : State) : (v.report t s).cntHdrCrc = s.cntHdrCrc := by cases v <;> rfl
@[simp] theorem report_cntDataCrc (v : Verdict) (t : Telegram) (s : State) : (v.report t s).cntDataCrc = s.cntDataCrc := by cases v <;> rfl
@[simp] theorem report_cntValid (v : Verdict) (t : Telegram) (s : State) : (v.report t s).cntValid = s.cntValid := by cases v <;> rfl
@[simp] theorem report_readData (v : Verdict) (t : Telegram) (s : State) : (v.report t s).readData = s.readData := by cases v <;> rfl
@[simp] theorem report_requests (v : Verdict) (t : Telegram) (s : State) : (v.report t s).requests = s.requests := by cases v <;> rfl
@[simp] theorem report_freeCount (v : Verdict) (t : Telegram) (s : State) : (v.report t s).freeCount = s.freeCount := by cases v <;> rfl
@[simp] theorem report_out (v : Verdict) (t : Telegram) (s : State) : (v.report t s).out = s.out ++ [v.event t] := by cases v <;> rfl

end Sys2Proof.Machine
end

