-- ==== Sys2Proof/Laws/Memory.lean ====
section
/-! SUPPORT. The frame buffer: a read after a write, the frame of a write, the canonical form, and what a run of reads gives after a run of writes (20_memory.md R50; 42_validator.md R161). -/
namespace Sys2Proof.Machine

@[simp] theorem memGet_memSet_same (m : List Host.Cell) (i : Nat) (b : Byte) : memGet (memSet m i b) i = some b := by
  induction m with
  | nil => simp [memSet, memGet]
  | cons x m ih =>
    obtain ⟨a, c⟩ := x
    unfold memSet
    split
    · simp [memGet]
    · split
      · simp [memGet]
      · next h1 h2 => simp [memGet, h2, ih]

theorem memGet_memSet_other (m : List Host.Cell) (i j : Nat) (b : Byte) (h : j ≠ i) :
    memGet (memSet m i b) j = memGet m j := by
  induction m with
  | nil => simp [memSet, memGet, h]
  | cons x m ih =>
    obtain ⟨a, c⟩ := x
    unfold memSet
    split
    · simp [memGet, h]
    · split
      · next h1 h2 => subst h2; simp [memGet, h]
      · simp [memGet, ih]

theorem mem_memSet {m : List Host.Cell} {i : Nat} {b : Byte} {x : Host.Cell} (h : x ∈ memSet m i b) :
    x = (i, b) ∨ x ∈ m := by
  induction m with
  | nil => simpa [memSet] using h
  | cons y m ih =>
    obtain ⟨a, c⟩ := y
    unfold memSet at h
    split at h
    · simpa using h
    · split at h
      · simp only [List.mem_cons] at h ⊢; tauto
      · simp only [List.mem_cons] at h ⊢
        rcases h with h | h
        · exact .inr (.inl h)
        · rcases ih h with h | h <;> tauto

/-- A write inside the buffer keeps the canonical form. -/
theorem memSet_wf {m : List Host.Cell} (hm : Memory.wf m) {i : Nat} (hi : i < Config.fbufBytes) (b : Byte) :
    Memory.wf (memSet m i b) := by
  refine ⟨?_, fun x hx => ?_⟩
  · have hp := hm.1
    clear hm
    induction m with
    | nil => simp [memSet]
    | cons y m ih =>
      obtain ⟨a, c⟩ := y
      rw [List.pairwise_cons] at hp
      unfold memSet
      split
      · next hlt =>
        refine List.pairwise_cons.2 ⟨fun z hz => ?_, List.pairwise_cons.2 hp⟩
        rcases List.mem_cons.1 hz with rfl | hz
        · exact hlt
        · exact hlt.trans (hp.1 z hz)
      · split
        · next h => subst h; exact List.pairwise_cons.2 hp
        · next h1 h2 =>
          refine List.pairwise_cons.2 ⟨fun z hz => ?_, ih hp.2⟩
          rcases mem_memSet hz with rfl | hz
          · exact (Nat.lt_or_gt_of_ne h2).resolve_left h1
          · exact hp.1 z hz
  · rcases mem_memSet hx with rfl | hx
    · exact hi
    · exact hm.2 x hx

/-- A run of writes inside the buffer keeps the canonical form. -/
theorem memSetList_wf {m : List Host.Cell} (hm : Memory.wf m) (i : Nat) (bs : List Byte)
    (h : i + bs.length ≤ Config.fbufBytes) : Memory.wf (memSetList m i bs) := by
  induction bs generalizing m i with
  | nil => exact hm
  | cons b bs ih =>
    simp only [List.length_cons] at h
    exact ih (memSet_wf hm (by omega) b) (i + 1) (by omega)

theorem reset_memory_wf : Memory.wf State.reset.fbuf := ⟨List.Pairwise.nil, fun _ h => nomatch h⟩

/-- `MemWrite` goes on inside the buffer only, writes the frame buffer only, and keeps the canonical form. -/
theorem storeByte_eq_next {i : Nat} {b : Byte} {s s' : State} (h : storeByte i b s = .next s') :
    i < Config.fbufBytes ∧ s' = { s with fbuf := memSet s.fbuf i b } := by
  unfold storeByte at h
  split at h
  · next hi => cases h; exact ⟨hi, rfl⟩
  · cases h

theorem storeByte_wf {i : Nat} {b : Byte} {s s' : State} (hm : Memory.wf s.fbuf) (h : storeByte i b s = .next s') :
    Memory.wf s'.fbuf := by
  obtain ⟨hi, rfl⟩ := storeByte_eq_next h
  exact memSet_wf hm hi b

theorem memGet_memSetList_below (m : List Host.Cell) (i j : Nat) (bs : List Byte) (h : j < i) :
    memGet (memSetList m i bs) j = memGet m j := by
  induction bs generalizing m i with
  | nil => rfl
  | cons b bs ih => rw [memSetList, ih _ _ (by omega), memGet_memSet_other _ _ _ _ (by omega)]

theorem memSetList_append (m : List Host.Cell) (i : Nat) (xs ys : List Byte) :
    memSetList m i (xs ++ ys) = memSetList (memSetList m i xs) (i + xs.length) ys := by
  induction xs generalizing m i with
  | nil => rfl
  | cons x xs ih => simp only [List.cons_append, memSetList, ih, List.length_cons]; congr 1; omega

theorem memGet_memSetList_at (m : List Host.Cell) (i k : Nat) (bs : List Byte) (h : k < bs.length) :
    memGet (memSetList m i bs) (i + k) = some bs[k] := by
  induction bs generalizing m i k with
  | nil => simp at h
  | cons b bs ih =>
    cases k with
    | zero => rw [memSetList, Nat.add_zero, memGet_memSetList_below _ _ _ _ (by omega)]; simp
    | succ k =>
      rw [memSetList, show i + (k + 1) = i + 1 + k by omega, ih _ _ _ (by simpa using h)]; simp

/-! ### Loads -/

/-- An unlisted index reads as its free value, a listed one as the byte written there. -/
theorem fbufByte_of_memGet {e : Nat} {m : List Host.Cell} {i : Nat} {b : Byte} (h : memGet m i = some b) :
    fbufByte e m i = b := by rw [fbufByte, h, Option.getD_some]

/-- Inside the buffer every index reads; outside it none exists. -/
theorem loadByte_eq_ok {e : Nat} {m : List Host.Cell} {i : Nat} {b : Byte} :
    loadByte e m i = .ok b ↔ i < Config.fbufBytes ∧ fbufByte e m i = b := by
  unfold loadByte
  split <;> simp [*]

theorem loadByte_of_memGet {e : Nat} {m : List Host.Cell} {i : Nat} {b : Byte} (hi : i < Config.fbufBytes)
    (h : memGet m i = some b) : loadByte e m i = .ok b := loadByte_eq_ok.2 ⟨hi, fbufByte_of_memGet h⟩

@[simp] theorem fbufByte_memSet_same (e : Nat) (m : List Host.Cell) (i : Nat) (b : Byte) :
    fbufByte e (memSet m i b) i = b := fbufByte_of_memGet (memGet_memSet_same m i b)

theorem fbufByte_memSet_other {e : Nat} {m : List Host.Cell} {i j : Nat} {b : Byte} (h : j ≠ i) :
    fbufByte e (memSet m i b) j = fbufByte e m j := by rw [fbufByte, memGet_memSet_other _ _ _ _ h, fbufByte]

theorem loadByte_memSet_same {e : Nat} {m : List Host.Cell} {i : Nat} {b : Byte} (h : i < Config.fbufBytes) :
    loadByte e (memSet m i b) i = .ok b := loadByte_eq_ok.2 ⟨h, fbufByte_memSet_same e m i b⟩

theorem loadByte_memSet_other {e : Nat} {m : List Host.Cell} {i j : Nat} {b : Byte} (h : j ≠ i) :
    loadByte e (memSet m i b) j = loadByte e m j := by
  unfold loadByte; rw [fbufByte_memSet_other h]

theorem loadBytes_length {e : Nat} {m : List Host.Cell} {i n : Nat} {bs : List Byte} (h : loadBytes e m i n = .ok bs) :
    bs.length = n := by
  induction n generalizing i bs with
  | zero => simp only [loadBytes, Except.ok.injEq] at h; subst h; rfl
  | succ n ih =>
    unfold loadBytes at h
    split at h
    · cases h
    · split at h
      · cases h
      · next h' => cases h; simpa using ih h'

theorem loadBytes_memSet_other {e : Nat} {m : List Host.Cell} {i n j : Nat} {b : Byte} (h : j < i ∨ i + n ≤ j) :
    loadBytes e (memSet m j b) i n = loadBytes e m i n := by
  induction n generalizing i with
  | zero => rfl
  | succ n ih => simp only [loadBytes]; rw [loadByte_memSet_other (by omega), ih (by omega)]

/-- A run of reads split in two. -/
theorem loadBytes_add {e : Nat} {m : List Host.Cell} {i n k : Nat} {xs ys : List Byte}
    (hx : loadBytes e m i n = .ok xs) (hy : loadBytes e m (i + n) k = .ok ys) : loadBytes e m i (n + k) = .ok (xs ++ ys) := by
  induction n generalizing i xs with
  | zero => simp only [loadBytes, Except.ok.injEq] at hx; subst hx; simpa using hy
  | succ n ih =>
    unfold loadBytes at hx
    split at hx
    · cases hx
    · next b hb =>
      split at hx
      · cases hx
      · next bs hbs =>
        cases hx
        rw [show n + 1 + k = (n + k) + 1 by omega]
        unfold loadBytes
        rw [hb, ih hbs (by rw [show i + 1 + n = i + (n + 1) by omega]; exact hy)]
        rfl

theorem loadBytes_split {e : Nat} {m : List Host.Cell} {i n k : Nat} {bs : List Byte} (h : loadBytes e m i (n + k) = .ok bs) :
    loadBytes e m i n = .ok (bs.take n) ∧ loadBytes e m (i + n) k = .ok (bs.drop n) := by
  induction n generalizing i bs with
  | zero => simpa [loadBytes] using h
  | succ n ih =>
    rw [show n + 1 + k = (n + k) + 1 by omega] at h
    unfold loadBytes at h
    split at h
    · cases h
    · next b hb =>
      split at h
      · cases h
      · next bs' hbs =>
        cases h
        obtain ⟨h1, h2⟩ := ih hbs
        refine ⟨?_, ?_⟩
        · unfold loadBytes; rw [hb, h1]; rfl
        · rw [show i + (n + 1) = i + 1 + n by omega]; simpa using h2

/-- A run of reads inside the buffer never stops. -/
theorem loadBytes_ok {e : Nat} {m : List Host.Cell} {i n : Nat} (h : i + n ≤ Config.fbufBytes) :
    ∃ bs, loadBytes e m i n = .ok bs := by
  induction n generalizing i with
  | zero => exact ⟨[], rfl⟩
  | succ n ih =>
    obtain ⟨bs, hbs⟩ := ih (i := i + 1) (by omega)
    have hb : loadByte e m i = .ok (fbufByte e m i) := loadByte_eq_ok.2 ⟨by omega, rfl⟩
    exact ⟨fbufByte e m i :: bs, by simp only [loadBytes, hb, hbs]⟩

theorem loadBytes_snoc {e : Nat} {m : List Host.Cell} {n : Nat} {bs : List Byte} {b : Byte}
    (h : loadBytes e m 0 n = .ok bs) (hn : n < Config.fbufBytes) : loadBytes e (memSet m n b) 0 (n + 1) = .ok (bs ++ [b]) := by
  refine loadBytes_add (by rw [loadBytes_memSet_other (by omega)]; exact h) ?_
  simp [loadBytes, loadByte_memSet_same hn]

theorem loadBytes_memSetList {e : Nat} {m : List Host.Cell} {i : Nat} {bs : List Byte} (h : i + bs.length ≤ Config.fbufBytes) :
    loadBytes e (memSetList m i bs) i bs.length = .ok bs := by
  induction bs generalizing m i with
  | nil => rfl
  | cons b bs ih =>
    simp only [List.length_cons] at h
    have h0 : loadByte e (memSetList (memSet m i b) (i + 1) bs) i = .ok b :=
      loadByte_of_memGet (by omega) (by rw [memGet_memSetList_below _ _ _ _ (by omega)]; simp)
    simp only [List.length_cons, loadBytes, memSetList, h0, ih (m := memSet m i b) (i := i + 1) (by omega)]

/-- What has been written from an index on reads back. -/
theorem loadBytes_of_memGet {e : Nat} {m : List Host.Cell} {i : Nat} {bs : List Byte}
    (h : ∀ k, k < bs.length → memGet m (i + k) = bs[k]?) (hi : i + bs.length ≤ Config.fbufBytes) :
    loadBytes e m i bs.length = .ok bs := by
  induction bs generalizing i with
  | nil => rfl
  | cons b bs ih =>
    simp only [List.length_cons] at hi
    have h0 : loadByte e m i = .ok b := loadByte_of_memGet (by omega) (by simpa using h 0 (by simp))
    have h1 := ih (i := i + 1) (fun k hk => by
      rw [show i + 1 + k = i + (k + 1) by omega, h (k + 1) (by simpa using hk)]; rfl) (by omega)
    simp only [List.length_cons, loadBytes, h0, h1]

/-! ### Bytes held from index 0 on -/

theorem holdsBytes_nil (m : List Host.Cell) : HoldsBytes m [] := fun _ h => nomatch h

theorem HoldsBytes.loadBytes {e : Nat} {m : List Host.Cell} {bs : List Byte} (h : HoldsBytes m bs)
    (hi : bs.length ≤ Config.fbufBytes) : loadBytes e m 0 bs.length = .ok bs :=
  loadBytes_of_memGet (fun k hk => by rw [Nat.zero_add]; exact h k hk) (by omega)

/-- One more byte written right after those held. -/
theorem HoldsBytes.snoc {m : List Host.Cell} {bs : List Byte} (h : HoldsBytes m bs) (b : Byte) :
    HoldsBytes (memSet m bs.length b) (bs ++ [b]) := by
  intro i hi
  by_cases hn : i = bs.length
  · subst hn; simp
  · have hlt : i < bs.length := by simp at hi; omega
    rw [memGet_memSet_other _ _ _ _ hn, h i hlt, List.getElem?_append_left hlt]

theorem holdsBytes_memSetList (m : List Host.Cell) (bs : List Byte) : HoldsBytes (memSetList m 0 bs) bs := by
  intro i hi
  have := memGet_memSetList_at m 0 i bs hi
  rw [Nat.zero_add] at this
  rw [this, List.getElem?_eq_getElem hi]

end Sys2Proof.Machine
end

