-- ==== Sys2Proof/Laws/Ops.lean ====
section
/-! SUPPORT. What each shared operation of FEED can do, said once: sequencing, the header byte store, the frame buffer store, the candidate record, the outcomes of a telegram, the replay, and FEED itself. -/
namespace Sys2Proof.Machine

@[simp] theorem andThen_next (s : State) (f : State → Result) : andThen (.next s) f = f s := rfl

theorem andThen_eq_next {r : Result} {f : State → Result} {t : State} :
    andThen r f = .next t ↔ ∃ s, r = .next s ∧ f s = .next t := by
  cases r <;> simp [andThen]

theorem consumeList_append (consume : Byte → State → Result) (xs ys : List Byte) (s : State) :
    consumeList consume (xs ++ ys) s = andThen (consumeList consume xs s) (consumeList consume ys) := by
  induction xs generalizing s with
  | nil => rfl
  | cons x xs ih =>
    simp only [List.cons_append, consumeList]
    cases consume x s with
    | next s' => simp only [andThen_next, ih]
    | fault e => rfl
    | refused e => rfl

/-! ### The header buffer -/

theorem setHeaderByte_eq_none {h : HeaderBuf} {i : Nat} {b : Byte} : setHeaderByte h i b = none ↔ 5 ≤ i := by
  rcases i with _ | _ | _ | _ | _ | i <;> simp [setHeaderByte]

/-- The header byte store below index 5 goes on, and writes `hbuf` and `hcnt` only. -/
theorem storeHeaderByte_eq_next {b : Byte} {s s' : State} (h : storeHeaderByte b s = .next s') :
    s.hcnt.toNat ≤ 4 ∧ ∃ hb, setHeaderByte s.hbuf s.hcnt.toNat b = some hb ∧ s' = { s with hbuf := hb, hcnt := s.hcnt + 1 } := by
  unfold storeHeaderByte at h
  split at h
  · next hb hhb =>
    cases h
    refine ⟨?_, hb, hhb, rfl⟩
    by_contra hlt
    rw [setHeaderByte_eq_none.2 (by omega)] at hhb
    cases hhb
  · cases h

theorem storeHeaderByte_goes {b : Byte} {s : State} (h : s.hcnt.toNat ≤ 4) :
    ∃ hb, setHeaderByte s.hbuf s.hcnt.toNat b = some hb ∧
      storeHeaderByte b s = .next { s with hbuf := hb, hcnt := s.hcnt + 1 } := by
  unfold storeHeaderByte
  cases hh : setHeaderByte s.hbuf s.hcnt.toNat b with
  | none => exact absurd (setHeaderByte_eq_none.1 hh) (by omega)
  | some hb => exact ⟨hb, rfl, rfl⟩

theorem hcnt_succ_eq_five {n : BitVec 3} : n + 1 = 5 ↔ n.toNat = 4 := by
  revert n; decide

/-! ### The replay -/

/-- The replay of five bytes from SEEKING_SYNC always goes on; with k the place of the first 0x55, k bytes are discarded and the rest start a header (41_frame_assembler.md R130). -/
theorem replay_eq (x0 x1 x2 x3 x4 : Byte) (s : State) (hf : s.fsm = .seekingSync) (hc : s.hcnt = 0) :
    consumeList consumeReplayed [x0, x1, x2, x3, x4] s = .next (
      if x0 = 0x55#8 then { s with fsm := .readingHeader, hcnt := 4, hbuf := ⟨x1, x2, x3, x4, s.hbuf.b4⟩ }
      else if x1 = 0x55#8 then { s with
        fsm := .readingHeader, hcnt := 3, hbuf := ⟨x2, x3, x4, s.hbuf.b3, s.hbuf.b4⟩
        cntSyncDiscard := s.cntSyncDiscard + 1 }
      else if x2 = 0x55#8 then { s with
        fsm := .readingHeader, hcnt := 2, hbuf := ⟨x3, x4, s.hbuf.b2, s.hbuf.b3, s.hbuf.b4⟩
        cntSyncDiscard := s.cntSyncDiscard + 2 }
      else if x3 = 0x55#8 then { s with
        fsm := .readingHeader, hcnt := 1, hbuf := ⟨x4, s.hbuf.b1, s.hbuf.b2, s.hbuf.b3, s.hbuf.b4⟩
        cntSyncDiscard := s.cntSyncDiscard + 3 }
      else if x4 = 0x55#8 then { s with fsm := .readingHeader, cntSyncDiscard := s.cntSyncDiscard + 4 }
      else { s with cntSyncDiscard := s.cntSyncDiscard + 5 }) := by
  obtain ⟨fsm, hcnt, hbuf, dl, ol, pt, hcrc, total, dcnt, dacc, fbuf, c0, c1, c2, c3, c4, c5, c6, c7, c8, out, rd, rq, fc⟩ := s
  subst hf hc
  have hsync : Config.sync = 0x55#8 := rfl
  by_cases h0 : x0 = 0x55#8
  · subst h0; rfl
  by_cases h1 : x1 = 0x55#8
  · subst h1
    simp [consumeList, consumeReplayed, consumeWith, consumeSeeking, h0, hsync, raise_frameSyncError]; rfl
  by_cases h2 : x2 = 0x55#8
  · subst h2
    simp [consumeList, consumeReplayed, consumeWith, consumeSeeking, h0, h1, hsync, raise_frameSyncError, BitVec.add_assoc]; rfl
  by_cases h3 : x3 = 0x55#8
  · subst h3
    simp [consumeList, consumeReplayed, consumeWith, consumeSeeking, h0, h1, h2, hsync, raise_frameSyncError, BitVec.add_assoc]; rfl
  by_cases h4 : x4 = 0x55#8
  · subst h4
    simp [consumeList, consumeReplayed, consumeWith, consumeSeeking, h0, h1, h2, h3, hsync, raise_frameSyncError, BitVec.add_assoc]
  · simp [consumeList, consumeReplayed, consumeWith, consumeSeeking, h0, h1, h2, h3, h4, hsync, raise_frameSyncError, BitVec.add_assoc]

/-- What the replay leaves alone, and where it ends. -/
theorem replay_frame (x0 x1 x2 x3 x4 : Byte) (s : State) (hf : s.fsm = .seekingSync) (hc : s.hcnt = 0) :
    ∃ (fsm : Fsm) (hcnt : BitVec 3) (hb : HeaderBuf) (n : Word),
      consumeList consumeReplayed [x0, x1, x2, x3, x4] s =
        .next { s with fsm := fsm, hcnt := hcnt, hbuf := hb, cntSyncDiscard := n } ∧
      hcnt.toNat ≤ 4 ∧ (fsm = .readingHeader ∨ fsm = .seekingSync ∧ hcnt = 0) := by
  rw [replay_eq x0 x1 x2 x3 x4 s hf hc]
  split
  · exact ⟨_, _, _, _, rfl, by decide, .inl rfl⟩
  split
  · exact ⟨_, _, _, _, rfl, by decide, .inl rfl⟩
  split
  · exact ⟨_, _, _, _, rfl, by decide, .inl rfl⟩
  split
  · exact ⟨_, _, _, _, rfl, by decide, .inl rfl⟩
  split
  · exact ⟨.readingHeader, s.hcnt, s.hbuf, _, rfl, by simp [hc], .inl rfl⟩
  · exact ⟨s.fsm, s.hcnt, s.hbuf, _, rfl, by simp [hc], .inr ⟨hf, hc⟩⟩

/-! ### The outcomes of a telegram -/

theorem underLengthRule_eq (r : Row) (t : Telegram) (s : State) (v : Verdict) :
    underLengthRule r t s (v.report t s) =
      .next ((if rowLengthOk r t.data.length then v else .lenMismatch).report t s) := by
  unfold underLengthRule
  split
  · rfl
  · rfl

theorem unknownProfile_eq (t : Telegram) (s : State) :
    unknownProfile t s = (Verdict.unknown (byteAt t.data 0)
      (if byteAt t.data 0 = 0xD2 then some (byteAt t.data 1) else none)
      (if byteAt t.data 0 = 0xD2 then some (byteAt t.data 2) else none) t.data).report t s := rfl

/-- Every telegram ends in one of its outcomes, chosen by its data portion alone, never in DecodeValueError, and nothing else happens (43_unpack_dispatch.md R189 to R191). -/
theorem dispatchTelegram_reports (d : List Byte) :
    ∃ v : Verdict, (∀ p, v ≠ .decodeErr p) ∧
      ∀ (t : Telegram) (s : State), t.data = d → dispatchTelegram t s = .next (v.report t s) := by
  have profile (r : Row) (p : Profile) (u : List Byte → Option Fields) (f : Fields) (hu : u d = some f) :
      ∃ v : Verdict, (∀ p, v ≠ .decodeErr p) ∧ ∀ (t : Telegram) (s : State), t.data = d →
        underLengthRule r t s (finishProfile p t (u t.data) s) = .next (v.report t s) := by
    refine ⟨if rowLengthOk r d.length then .decoded (reading p d f) else .lenMismatch, ?_, ?_⟩
    · intro p; split <;> simp
    · rintro t s rfl; rw [hu, finishProfile_some, underLengthRule_eq]
  have unknown (r : Row) : ∃ v : Verdict, (∀ p, v ≠ .decodeErr p) ∧ ∀ (t : Telegram) (s : State), t.data = d →
      underLengthRule r t s (unknownProfile t s) = .next (v.report t s) := by
    refine ⟨if rowLengthOk r d.length then .unknown (byteAt d 0)
      (if byteAt d 0 = 0xD2 then some (byteAt d 1) else none)
      (if byteAt d 0 = 0xD2 then some (byteAt d 2) else none) d else .lenMismatch, ?_, ?_⟩
    · intro p; split <;> simp
    · rintro t s rfl; rw [unknownProfile_eq, underLengthRule_eq]
  cases h : selectRow d with
  | error e => exact ⟨.lenMismatch, by simp, fun t s ht => by rw [← ht] at h; rw [dispatchTelegram, h]; rfl⟩
  | ok r =>
    have lift {f : Telegram → State → Result}
        (hf : ∃ v : Verdict, (∀ p, v ≠ .decodeErr p) ∧ ∀ (t : Telegram) (s : State), t.data = d → f t s = .next (v.report t s))
        (hd : ∀ (t : Telegram) (s : State), t.data = d → dispatchTelegram t s = f t s) :
        ∃ v : Verdict, (∀ p, v ≠ .decodeErr p) ∧ ∀ (t : Telegram) (s : State), t.data = d →
          dispatchTelegram t s = .next (v.report t s) := by
      obtain ⟨v, hv, hr⟩ := hf
      exact ⟨v, hv, fun t s ht => (hd t s ht).trans (hr t s ht)⟩
    cases r with
    | rps => exact lift (profile .rps .rps unpackRps _ rfl) fun t s ht => by rw [← ht] at h; rw [dispatchTelegram, h]; rfl
    | oneBs => exact lift (profile .oneBs .oneBs unpackOneBs _ rfl) fun t s ht => by rw [← ht] at h; rw [dispatchTelegram, h]; rfl
    | fourBs => exact lift (profile .fourBs .fourBs unpackFourBs _ rfl) fun t s ht => by rw [← ht] at h; rw [dispatchTelegram, h]; rfl
    | teachIn => exact lift (profile .teachIn .teachIn unpackTeachIn _ rfl) fun t s ht => by rw [← ht] at h; rw [dispatchTelegram, h]; rfl
    | vld1441 => exact lift (profile .vld1441 .vld1441 unpackVld1441 _ rfl) fun t s ht => by rw [← ht] at h; rw [dispatchTelegram, h]; rfl
    | vld1440 => exact lift (profile .vld1440 .vld1440 unpackVld1440 _ rfl) fun t s ht => by rw [← ht] at h; rw [dispatchTelegram, h]; rfl
    | vld0112 => exact lift (profile .vld0112 .vld0112 unpackVld0112 _ rfl) fun t s ht => by rw [← ht] at h; rw [dispatchTelegram, h]; rfl
    | vld0101 => exact lift (profile .vld0101 .vld0101 unpackVld0101 _ rfl) fun t s ht => by rw [← ht] at h; rw [dispatchTelegram, h]; rfl
    | vld0500 => exact lift (profile .vld0500 .vld0500 unpackVld0500 _ rfl) fun t s ht => by rw [← ht] at h; rw [dispatchTelegram, h]; rfl
    | unknownD2 => exact lift (unknown .unknownD2) fun t s ht => by rw [← ht] at h; rw [dispatchTelegram, h]; rfl
    | unknownRorg => exact lift (unknown .unknownRorg) fun t s ht => by rw [← ht] at h; rw [dispatchTelegram, h]; rfl

/-! ### The end of a frame -/

/-- The candidate record is what the three reads give (42_validator.md R161). -/
theorem candidate_eq_ok {s : State} {t : Telegram} :
    candidate s = .ok t ↔ loadBytes s.freeCount s.fbuf 0 s.dl.toNat = .ok t.data ∧ loadBytes s.freeCount s.fbuf s.dl.toNat s.ol.toNat = .ok t.opt ∧
      loadByte s.freeCount s.fbuf (s.dl.toNat + s.ol.toNat) = .ok t.dcrc ∧ t.pt = s.pt ∧ t.hcrc = s.hcrc := by
  unfold candidate
  constructor
  · intro h
    simp only at h
    split at h
    · cases h
    · next data hd =>
      split at h
      · cases h
      · next opt ho =>
        split at h
        · cases h
        · next dcrc hc => cases h; exact ⟨hd, ho, hc, rfl, rfl⟩
  · rintro ⟨hd, ho, hc, hp, hh⟩
    obtain ⟨pt, hcrc, data, opt, dcrc⟩ := t
    simp only at hd ho hc hp hh
    simp only [hd, ho, hc, hp, hh]

/-- The candidate record can be read in every state: no header announces more than FBUF holds (10_state.md R28). -/
theorem candidate_goes (s : State) : ∃ t, candidate s = .ok t := by
  have h1 := s.dl.isLt
  have h2 := s.ol.isLt
  have hi : s.dl.toNat + s.ol.toNat < Config.fbufBytes := by unfold Config.fbufBytes; omega
  obtain ⟨data, hd⟩ := loadBytes_ok (e := s.freeCount) (m := s.fbuf) (i := 0) (n := s.dl.toNat) (by omega)
  obtain ⟨opt, ho⟩ := loadBytes_ok (e := s.freeCount) (m := s.fbuf) (i := s.dl.toNat) (n := s.ol.toNat) (by omega)
  exact ⟨⟨s.pt, s.hcrc, data, opt, _⟩, candidate_eq_ok.2 ⟨hd, ho, loadByte_eq_ok.2 ⟨hi, rfl⟩, rfl, rfl⟩⟩

/-- A frame's end is DataCrcError or the telegram's outcome. -/
theorem completeFrame_eq_next {s s' : State} (h : completeFrame s = .next s') :
    ∃ t, candidate s = .ok t ∧
      ((s.dacc ≠ t.dcrc ∧ s' = raise .dataCrcError (some (.dataCrcErr t s.dacc)) s) ∨
       (s.dacc = t.dcrc ∧ dispatchTelegram t (inc .valid s) = .next s')) := by
  unfold completeFrame at h
  split at h
  · cases h
  · next t ht =>
    refine ⟨t, ht, ?_⟩
    split at h
    · next hne => cases h; exact .inl ⟨hne, rfl⟩
    · next heq => exact .inr ⟨not_not.1 heq, h⟩

/-- The candidate record when its last byte has just been stored: what was read before it, and that byte. -/
theorem candidate_of_loads {s : State} {n : Nat} {b : Byte} {data opt : List Byte} (hi : n < Config.fbufBytes)
    (hn : n = s.dl.toNat + s.ol.toNat)
    (hd : loadBytes s.freeCount s.fbuf 0 s.dl.toNat = .ok data) (ho : loadBytes s.freeCount s.fbuf s.dl.toNat s.ol.toNat = .ok opt) :
    candidate { s with fbuf := memSet s.fbuf n b } =
      .ok { pt := s.pt, hcrc := s.hcrc, data := data, opt := opt, dcrc := b } := by
  subst hn
  refine candidate_eq_ok.2 ⟨?_, ?_, loadByte_memSet_same hi, rfl, rfl⟩
  · rw [loadBytes_memSet_other (by dsimp only; omega)]; exact hd
  · rw [loadBytes_memSet_other (by dsimp only; omega)]; exact ho

theorem completeFrame_of_candidate {s : State} {t : Telegram} (h : candidate s = .ok t) :
    completeFrame s = if s.dacc ≠ t.dcrc then .next (raise .dataCrcError (some (.dataCrcErr t s.dacc)) s)
      else dispatchTelegram t (inc .valid s) := by
  unfold completeFrame; rw [h]

/-- A payload byte before the last one is stored, enters the running CRC and is counted. -/
theorem consumeData_more {b : Byte} {s : State} (hi : s.dcnt.toNat < Config.fbufBytes)
    (ht : s.dcnt.toNat + 1 < s.total.toNat) :
    consumeData b s = .next { s with fbuf := memSet s.fbuf s.dcnt.toNat b, dacc := crc8Update s.dacc b, dcnt := s.dcnt + 1 } := by
  have hd : s.dcnt + 1 ≠ s.total := by
    intro h
    have hn := congrArg BitVec.toNat h
    have := s.total.isLt
    rw [BitVec.toNat_add] at hn
    simp at hn
    omega
  simp only [consumeData, storeByte, if_pos hi, andThen_next, if_pos ht, if_neg hd]

/-- The last payload byte is stored, stays out of the running CRC, and completes the frame. -/
theorem consumeData_last {b : Byte} {s : State} (hi : s.dcnt.toNat < Config.fbufBytes)
    (ht : s.dcnt.toNat + 1 = s.total.toNat) :
    consumeData b s = completeFrame { s with fbuf := memSet s.fbuf s.dcnt.toNat b, dcnt := s.total, fsm := .seekingSync } := by
  have hd : s.dcnt + 1 = s.total := by
    apply BitVec.eq_of_toNat_eq
    have := s.total.isLt
    rw [BitVec.toNat_add]
    simp
    omega
  have hlt : ¬ s.dcnt.toNat + 1 < s.total.toNat := by omega
  simp only [consumeData, storeByte, if_pos hi, andThen_next, if_neg hlt, hd, if_true]

/-! ### FEED -/

theorem execFeed_seeking {b : Byte} {s : State} (h : s.fsm = .seekingSync) : execFeed b s = consumeSeeking b s := by
  unfold execFeed consumeWith; rw [h]

theorem execFeed_data {b : Byte} {s : State} (h : s.fsm = .readingData) : execFeed b s = consumeData b s := by
  unfold execFeed consumeWith; rw [h]

/-- One of the first four header bytes is stored and counted. -/
theorem execFeed_header {b : Byte} {s : State} (h : s.fsm = .readingHeader) (hc : s.hcnt.toNat ≤ 3) :
    ∃ hb, setHeaderByte s.hbuf s.hcnt.toNat b = some hb ∧ execFeed b s = .next { s with hbuf := hb, hcnt := s.hcnt + 1 } := by
  obtain ⟨hb, h1, h2⟩ := storeHeaderByte_goes (b := b) (s := s) (by omega)
  refine ⟨hb, h1, ?_⟩
  have hne : s.hcnt + 1 ≠ 5 := fun h5 => by have := hcnt_succ_eq_five.1 h5; omega
  simp only [execFeed, consumeWith, h, consumeHeader, h2, andThen_next, if_neg hne]

/-- The fifth header byte is stored and the header is checked in the same step. -/
theorem execFeed_fifth {b : Byte} {s : State} (h : s.fsm = .readingHeader) (hc : s.hcnt.toNat = 4) :
    execFeed b s = validateHeader consumeReplayed
      { s with hbuf := { s.hbuf with b4 := b }, hcnt := s.hcnt + 1, fsm := .validatingHeader } := by
  obtain ⟨hb, h1, h2⟩ := storeHeaderByte_goes (b := b) (s := s) (by omega)
  rw [hc] at h1
  cases h1
  simp only [execFeed, consumeWith, h, consumeHeader, h2, andThen_next, if_pos (hcnt_succ_eq_five.2 hc)]

theorem validateHeader_match {replay : Byte → State → Result} {s : State} (h : headerCalc s.hbuf = s.hbuf.b4) :
    validateHeader replay s = .next (latchHeader s) := if_pos h

theorem validateHeader_mismatch {replay : Byte → State → Result} {s : State} (h : headerCalc s.hbuf ≠ s.hbuf.b4) :
    validateHeader replay s =
      consumeList replay [s.hbuf.b0, s.hbuf.b1, s.hbuf.b2, s.hbuf.b3, s.hbuf.b4] (rejectHeader s) := if_neg h

/-- Everything one FEED that goes on can do: find a sync byte, discard a stray byte, store a header byte, latch a matching header, reject a header and replay it, buffer a payload byte, or complete a frame (41_frame_assembler.md R121 to R141). -/
theorem execFeed_cases {b : Byte} {s s' : State} (h : execFeed b s = .next s') :
    (s.fsm = .seekingSync ∧ b = 0x55 ∧ s' = { s with fsm := .readingHeader, hcnt := 0 }) ∨
    (s.fsm = .seekingSync ∧ b ≠ 0x55 ∧ s' = { s with cntSyncDiscard := s.cntSyncDiscard + 1 }) ∨
    (s.fsm = .readingHeader ∧ s.hcnt.toNat ≤ 3 ∧ ∃ hb, setHeaderByte s.hbuf s.hcnt.toNat b = some hb ∧
      s' = { s with hbuf := hb, hcnt := s.hcnt + 1 }) ∨
    (s.fsm = .readingHeader ∧ s.hcnt.toNat = 4 ∧ headerCalc s.hbuf = b ∧
      s' = latchHeader { s with hbuf := { s.hbuf with b4 := b } }) ∨
    (s.fsm = .readingHeader ∧ s.hcnt.toNat = 4 ∧ headerCalc s.hbuf ≠ b ∧
      ∃ (fsm : Fsm) (hcnt : BitVec 3) (hb : HeaderBuf) (n : Word), hcnt.toNat ≤ 4 ∧
        (fsm = .readingHeader ∨ fsm = .seekingSync ∧ hcnt = 0) ∧
        s' = { s with
          fsm := fsm, hcnt := hcnt, hbuf := hb, cntSyncDiscard := n
          cntHdrCrc := s.cntHdrCrc + 1, cntError := s.cntError + 1
          out := s.out ++ [.hdrCrcErr s.hbuf.b0 s.hbuf.b1 s.hbuf.b2 s.hbuf.b3 b (headerCalc s.hbuf)] }) ∨
    (s.fsm = .readingData ∧ s.dcnt.toNat < Config.fbufBytes ∧ s.dcnt + 1 ≠ s.total ∧
      s' = { s with
        fbuf := memSet s.fbuf s.dcnt.toNat b
        dacc := if s.dcnt.toNat + 1 < s.total.toNat then crc8Update s.dacc b else s.dacc
        dcnt := s.dcnt + 1 }) ∨
    (s.fsm = .readingData ∧ s.dcnt.toNat < Config.fbufBytes ∧ s.dcnt + 1 = s.total ∧
      completeFrame { s with
        fbuf := memSet s.fbuf s.dcnt.toNat b
        dacc := if s.dcnt.toNat + 1 < s.total.toNat then crc8Update s.dacc b else s.dacc
        dcnt := s.dcnt + 1
        fsm := .seekingSync } = .next s') := by
  unfold execFeed consumeWith at h
  split at h
  · next hf =>
    unfold consumeSeeking at h
    split at h
    · next hb => cases h; exact .inl ⟨hf, hb, rfl⟩
    · next hb => cases h; exact .inr (.inl ⟨hf, hb, rfl⟩)
  · next hf =>
    unfold consumeHeader at h
    obtain ⟨s1, h1, h2⟩ := andThen_eq_next.1 h
    obtain ⟨hle, hb, hhb, rfl⟩ := storeHeaderByte_eq_next h1
    split at h2
    · next h5 =>
      have h4 : s.hcnt.toNat = 4 := hcnt_succ_eq_five.1 h5
      rw [h4] at hhb
      cases hhb
      unfold validateHeader at h2
      split at h2
      · next hm => cases h2; exact .inr (.inr (.inr (.inl ⟨hf, h4, hm, rfl⟩)))
      · next hm =>
        obtain ⟨fsm, hcnt, hb, n, hr, hle', hend⟩ := replay_frame s.hbuf.b0 s.hbuf.b1 s.hbuf.b2 s.hbuf.b3 b
          (rejectHeader { s with hbuf := { s.hbuf with b4 := b }, hcnt := s.hcnt + 1, fsm := .validatingHeader }) rfl rfl
        simp only at h2
        rw [hr] at h2
        cases h2
        exact .inr (.inr (.inr (.inr (.inl ⟨hf, h4, hm, fsm, hcnt, hb, n, hle', hend, rfl⟩))))
    · next h5 =>
      cases h2
      have : s.hcnt.toNat ≠ 4 := fun h4 => h5 (hcnt_succ_eq_five.2 h4)
      exact .inr (.inr (.inl ⟨hf, by omega, hb, hhb, rfl⟩))
  · cases h
  · next hf =>
    unfold consumeData at h
    obtain ⟨s1, h1, h2⟩ := andThen_eq_next.1 h
    unfold storeByte at h1
    split at h1
    · next hlt =>
      cases h1
      right; right; right; right; right
      dsimp only at h2
      split at h2
      · next he => exact .inr ⟨hf, hlt, he, h2⟩
      · next he => cases h2; exact .inl ⟨hf, hlt, he, rfl⟩
    · cases h1

end Sys2Proof.Machine
end

