-- ==== Sys2Proof/Laws/PerInstr.lean ====
section
/-! SUPPORT. One statement for each instruction: the word of a well-formed instruction carries the match of its row of spec/opcode_table.json under that row's mask. -/
namespace Sys2Proof.Laws.TableMatch
open Sys2Proof.Machine

/-- The word of an instruction as spec/opcode_table.json numbers it: the port word (30_encoding.md R70), the register address (R95), or the dispatch key (R88). -/
def tableWord : Instr → Nat
  | .reset x => (1#1 ++ x).toNat
  | .feed b => (portWord 0 1 b).toNat
  | .idle x => (portWord 0 0 x).toNat
  | .regread a => a.toNat
  | .rpsF6 t => (dispatchKey t.data).toNat
  | .oneBsD50001 t => (dispatchKey t.data).toNat
  | .fourBsA5 t => (dispatchKey t.data).toNat
  | .teachInD4 t => (dispatchKey t.data).toNat
  | .vldD21441 t => (dispatchKey t.data).toNat
  | .vldD21440 t => (dispatchKey t.data).toNat
  | .vldD20112 t => (dispatchKey t.data).toNat
  | .vldD20101 t => (dispatchKey t.data).toNat
  | .vldD20500 t => (dispatchKey t.data).toNat
  | .unknownD2 t => (dispatchKey t.data).toNat
  | .unknownRorg t => (dispatchKey t.data).toNat

/-- The mask and the match of each row, copied from spec/opcode_table.json. -/
def tableRow : Instr → Nat × Nat
  | .reset _ => (0x200, 0x200)
  | .feed _ => (0x300, 0x100)
  | .idle _ => (0x300, 0x000)
  | .regread _ => (0x00, 0x00)
  | .rpsF6 _ => (0xFF0000, 0xF60000)
  | .oneBsD50001 _ => (0xFF0000, 0xD50000)
  | .fourBsA5 _ => (0xFF0000, 0xA50000)
  | .teachInD4 _ => (0xFF0000, 0xD40000)
  | .vldD21441 _ => (0xFFFFFF, 0xD21441)
  | .vldD21440 _ => (0xFFFFFF, 0xD21440)
  | .vldD20112 _ => (0xFFFFFF, 0xD20112)
  | .vldD20101 _ => (0xFFFFFF, 0xD20101)
  | .vldD20500 _ => (0xFFFFFF, 0xD20500)
  | .unknownD2 _ => (0xFF0000, 0xD20000)
  | .unknownRorg _ => (0x000000, 0x000000)

/-- The word of a well-formed instruction carries its row's match under its row's mask. -/
def Statement (i : Instr) : Prop := i.wellFormed = true → tableWord i &&& (tableRow i).1 = (tableRow i).2

/-- A telegram that is well formed for a row has a key that the row matches. -/
theorem key_of_wellFormed {t : Telegram} {r : Row} (h : t.wellFormed r = true) :
    (dispatchKey t.data).toNat &&& (rowMask r).toNat = (rowPattern r).toNat := by
  have hs : t.selects r = true := by
    simp only [Telegram.wellFormed, Bool.and_eq_true] at h; exact h.2
  have hr : firstRow (dispatchKey t.data) = r := by
    unfold Telegram.selects selectRow at hs
    split at hs
    · next r' hr' =>
      split at hr'
      · cases hr'
      · split at hr'
        · cases hr'
        · cases hr'; exact beq_iff_eq.1 hs
    · cases hs
  have hm : rowMatches (dispatchKey t.data) r = true := by
    unfold firstRow at hr
    cases hf : dispatchOrder.find? (rowMatches (dispatchKey t.data)) with
    | none => rw [hf] at hr; subst hr; simp [rowMatches, rowMask, rowPattern]
    | some r' => rw [hf] at hr; simp only [Option.getD_some] at hr; subst hr; exact List.find?_some hf
  have := congrArg BitVec.toNat (beq_iff_eq.1 hm)
  rwa [BitVec.toNat_and] at this

theorem reset (x : BitVec 9) : Statement (.reset x) := fun _ => by
  show (1#1 ++ x).toNat &&& 0x200 = 0x200
  revert x
  decide +kernel

theorem feed (b : Byte) : Statement (.feed b) := fun _ => by
  show (portWord 0 1 b).toNat &&& 0x300 = 0x100
  revert b
  decide +kernel

theorem idle (x : Byte) : Statement (.idle x) := fun _ => by
  show (portWord 0 0 x).toNat &&& 0x300 = 0
  revert x
  decide +kernel

theorem regread (a : Byte) : Statement (.regread a) := fun _ => Nat.and_zero _

theorem rpsF6 (t : Telegram) : Statement (.rpsF6 t) := fun h => key_of_wellFormed (r := .rps) h
theorem oneBsD50001 (t : Telegram) : Statement (.oneBsD50001 t) := fun h => key_of_wellFormed (r := .oneBs) h
theorem fourBsA5 (t : Telegram) : Statement (.fourBsA5 t) := fun h => key_of_wellFormed (r := .fourBs) h
theorem teachInD4 (t : Telegram) : Statement (.teachInD4 t) := fun h => key_of_wellFormed (r := .teachIn) h
theorem vldD21441 (t : Telegram) : Statement (.vldD21441 t) := fun h => key_of_wellFormed (r := .vld1441) h
theorem vldD21440 (t : Telegram) : Statement (.vldD21440 t) := fun h => key_of_wellFormed (r := .vld1440) h
theorem vldD20112 (t : Telegram) : Statement (.vldD20112 t) := fun h => key_of_wellFormed (r := .vld0112) h
theorem vldD20101 (t : Telegram) : Statement (.vldD20101 t) := fun h => key_of_wellFormed (r := .vld0101) h
theorem vldD20500 (t : Telegram) : Statement (.vldD20500 t) := fun h => key_of_wellFormed (r := .vld0500) h
theorem unknownD2 (t : Telegram) : Statement (.unknownD2 t) := fun h => key_of_wellFormed (r := .unknownD2) h
theorem unknownRorg (t : Telegram) : Statement (.unknownRorg t) := fun h => key_of_wellFormed (r := .unknownRorg) h

end Sys2Proof.Laws.TableMatch
end

