-- ==== Sys2Proof/Laws/Unpack.lean ====
section
/-! SUPPORT. The reads of a data portion: every index that a row reads exists under its length rule (44_unpack_profiles.md, opening), and the fields as numbers. -/
namespace Sys2Proof.Machine

/-- Where the index exists, `byteAt` is the byte there. -/
theorem getElem?_eq_byteAt {d : List Byte} {i : Nat} (h : i < d.length) : d[i]? = some (byteAt d i) := by
  simp [byteAt, h]

/-- The greatest index from the front that a row's meaning reads. -/
def rowTopIndex : Row → Nat
  | .rps => 1
  | .oneBs => 1
  | .fourBs => 4
  | .teachIn => 0
  | .vld1441 => 12
  | .vld1440 => 10
  | .vld0112 => 5
  | .vld0101 => 3
  | .vld0500 => 3
  | .unknownD2 => 2
  | .unknownRorg => 0

/-- Under its length rule a row reads no index that is not there, from the front. -/
theorem rowTopIndex_lt {r : Row} {n : Nat} (h : rowLengthOk r n = true) : rowTopIndex r < n := by
  cases r <;> simp [rowLengthOk] at h <;> simp [rowTopIndex] <;> omega

/-- Under the length rule of every row but row 11 there are at least six bytes: the RORG, and the five that the sender ID and the status take from the back. -/
theorem six_le_of_rowLengthOk {r : Row} {n : Nat} (hr : r ≠ .unknownRorg) (h : rowLengthOk r n = true) : 6 ≤ n := by
  cases r <;> simp [rowLengthOk] at h <;> first | omega | exact absurd rfl hr

/-- The least length of a row is one that it admits. -/
theorem rowMinLength_ok (r : Row) : rowLengthOk r (rowMinLength r) = true := by cases r <;> rfl

theorem rowMinLength_le {r : Row} {n : Nat} (h : rowLengthOk r n = true) : rowMinLength r ≤ n := by
  cases r <;> simp [rowLengthOk] at h <;> simp [rowMinLength] <;> omega

/-! ### Fields as numbers -/

theorem append4_eq_ofNat (a b c d : Byte) :
    a ++ b ++ c ++ d = BitVec.ofNat 32 (a.toNat * 2 ^ 24 + b.toNat * 2 ^ 16 + c.toNat * 2 ^ 8 + d.toNat) := by
  have ha := a.isLt
  have hb := b.isLt
  have hc := c.isLt
  have hd := d.isLt
  apply BitVec.eq_of_toNat_eq
  simp only [BitVec.toNat_append, BitVec.toNat_ofNat]
  rw [← Nat.shiftLeft_add_eq_or_of_lt hb, ← Nat.shiftLeft_add_eq_or_of_lt hc, ← Nat.shiftLeft_add_eq_or_of_lt hd]
  simp only [Nat.shiftLeft_eq]
  omega

/-- The sender ID of a data portion that ends in five given bytes (43_unpack_dispatch.md R187). -/
theorem senderId_append (xs : List Byte) (i3 i2 i1 i0 st : Byte) :
    senderId (xs ++ [i3, i2, i1, i0, st]) =
      BitVec.ofNat 32 (i3.toNat * 2 ^ 24 + i2.toNat * 2 ^ 16 + i1.toNat * 2 ^ 8 + i0.toNat) := by
  rw [← append4_eq_ofNat]
  simp [senderId, byteAt]

theorem statusByte_append (xs : List Byte) (i3 i2 i1 i0 st : Byte) : statusByte (xs ++ [i3, i2, i1, i0, st]) = st := by
  simp [statusByte, byteAt]

theorem tempRaw_toNat (x0 x1 : Byte) : (tempRaw x0 x1).toNat = x0.toNat * 4 + x1.toNat / 64 := by
  have h0 := x0.isLt
  have h1 := x1.isLt
  have h := (x1.extractLsb' 6 2).isLt
  rw [tempRaw, BitVec.toNat_append, ← Nat.shiftLeft_add_eq_or_of_lt h, BitVec.extractLsb'_toNat]
  simp only [Nat.shiftLeft_eq, Nat.shiftRight_eq_div_pow]
  omega

theorem humRaw_toNat (x1 : Byte) : (humRaw x1).toNat = x1.toNat % 64 := by
  rw [humRaw, BitVec.extractLsb'_toNat]; simp

theorem illumRaw_toNat (x2 x3 : Byte) : (illumRaw x2 x3).toNat = x2.toNat * 256 + x3.toNat := append_toNat x2 x3

end Sys2Proof.Machine
end

