-- ==== Sys2Proof/Machine/TestInputs.lean ====
section
/-! DEFINITION. The lines of a test input and what each expands to, as requests of the host (30_encoding.md R96 to R99). -/
namespace Sys2Proof.Machine

/-- One line of a test input: the four transactions and the pseudo-instructions (30_encoding.md R96 to R99). -/
inductive TestLine where
  /-- `FEED 0xNN` -/
  | feed (b : Byte)
  /-- `RESET` -/
  | reset
  /-- `IDLE` -/
  | idle
  /-- `READ 0xAA` -/
  | read (a : Byte)
  /-- `FEEDS b1 b2 ... bn` -/
  | feeds (bytes : List Byte)
  /-- `FRAME pt, [data], [opt]` -/
  | frame (pt : Byte) (data opt : List Byte)
  /-- `RADIO [data], [opt7]`, `len(opt7)` = 7 -/
  | radio (data : List Byte) (opt7 : Vector Byte 7)
  /-- `BADHDR pt, [data], [opt]` -/
  | badHdr (pt : Byte) (data opt : List Byte)
  /-- `BADDATA pt, [data], [opt]` -/
  | badData (pt : Byte) (data opt : List Byte)
  deriving DecidableEq, Repr

/-- `FEED` of each byte of a list, in order (30_encoding.md R96). -/
def feedLines (bytes : List Byte) : List Request := bytes.map fun b => .port (portWord 0 1 b)

/-- `BADHDR`: the header CRC byte replaced by `CRC8(header) ^ 0x01` (30_encoding.md R99). -/
def badHdrTelegram (pt : Byte) (data opt : List Byte) : Telegram :=
  let t := frameTelegram pt data opt
  { t with hcrc := t.hcrc ^^^ 0x01 }

/-- `BADDATA`: the data CRC byte replaced by `CRC8(data ++ opt) ^ 0x01` (30_encoding.md R99). -/
def badDataTelegram (pt : Byte) (data opt : List Byte) : Telegram :=
  let t := frameTelegram pt data opt
  { t with dcrc := t.dcrc ^^^ 0x01 }

/-- The requests that a line stands for (30_encoding.md R96 to R99). -/
def TestLine.expand : TestLine → List Request
  | .feed b => feedLines [b]
  | .reset => [.port 0x200]
  | .idle => [.port 0x000]
  | .read a => [.read a]
  | .feeds bytes => feedLines bytes
  | .frame pt data opt => feedLines (encodeFrame (frameTelegram pt data opt))
  | .radio data opt7 => feedLines (encodeFrame (frameTelegram 0x01 data opt7.toList))
  | .badHdr pt data opt => feedLines (encodeFrame (badHdrTelegram pt data opt))
  | .badData pt data opt => feedLines (encodeFrame (badDataTelegram pt data opt))

end Sys2Proof.Machine
end

