-- ==== Sys2Proof/Tests/Slice0.lean ====
section
/-! SUPPORT. Tests: well-formedness, decoding of written words, one step of each instruction against the values of spec/95_test_vectors.md, and a witness for the hypotheses of every obligation that has some. -/
-- The tests are elaborated one after another: each runs in the kernel, and many at once need more memory than a check allows.
set_option Elab.async false

namespace Sys2Proof.Tests
open Sys2Proof.Machine

/-! ### Helpers -/

/-- A state in READING_HEADER that has taken `n` header bytes. -/
def inHeader (h : HeaderBuf) (n : BitVec 3) : State := { State.reset with fsm := .readingHeader, hbuf := h, hcnt := n }

/-- A state in READING_DATA that has taken the first `n` bytes of a telegram's payload. -/
def inFrame (t : Telegram) (n : Nat) : State :=
  { State.reset with
    fsm := .readingData, dl := t.dl, ol := t.ol, pt := t.pt, hcrc := t.hcrc, total := totalLength t.dl t.ol
    dcnt := BitVec.ofNat 17 n, dacc := crc8 ((t.data ++ t.opt).take n)
    fbuf := memSetList [] 0 ((t.data ++ t.opt).take n) }

/-- The state a result goes on to, if it does. -/
def after (r : Result) : Option State :=
  match r with
  | .next s => some s
  | .fault _ => none
  | .refused _ => none

/-- The events of a result that goes on. -/
def events (r : Result) : Option (List Event) := (after r).map State.out

theorem next_of_events {r : Result} {es : List Event} (h : events r = some es) : ∃ s', r = .next s' ∧ s'.out = es := by
  cases r with
  | next s => exact ⟨s, rfl, by simpa [events, after] using h⟩
  | fault e => cases h
  | refused e => cases h

/-- The reading's fields, if a result's one event is DECODED. -/
def decodedFields (r : Result) : Option Fields :=
  match events r with
  | some [.decoded _ rd] => some rd.fields
  | _ => none

/-- The sender and the status of a decoded reading. -/
def decodedSender (r : Result) : Option (BitVec 32 × Byte) :=
  match events r with
  | some [.decoded _ rd] => some (rd.senderId, rd.status)
  | _ => none

/-- The telegram of V-SY15: the source's F6 scenario without optional bytes (95_test_vectors.md section 2.4). -/
def f6 : Telegram :=
  { pt := 0x01, hcrc := 0x11, data := [0xF6, 0x70, 0x78, 0x9A, 0xBC, 0xDE, 0x30], opt := [], dcrc := 0x03 }

/-- A telegram with only a data portion of interest, for the rows' own tests: the other parts are carried along. -/
def carrying (data : List Byte) : Telegram := { pt := 0x01, hcrc := 0x00, data := data, opt := [], dcrc := 0x00 }

/-! ### CRC-8 (95_test_vectors.md section 2.1) -/

theorem test_crc_vectors :
    crc8 [] = 0x00 ∧ crc8 [0x01] = 0x07 ∧ crc8 [0x55] = 0xAC ∧ crc8 [0x80] = 0x89 ∧ crc8 [0xFF] = 0xF3 ∧
    crc8 [0x00, 0x07, 0x07, 0x01] = 0x7A ∧ crc8 [0x55, 0x00, 0x07, 0x07] = 0xCC := by decide +kernel

theorem test_crc_check_value :
    crc8 [0x31, 0x32, 0x33, 0x34, 0x35, 0x36, 0x37, 0x38, 0x39] = 0xF4 ∧
    crc8 [0xF6, 0x70, 0x78, 0x9A, 0xBC, 0xDE, 0x30, 0x01, 0xFF, 0xFF, 0xFF, 0xFF, 0x2D, 0x00] = 0x92 ∧
    crc8 [0xF6, 0x70, 0x78, 0x9A, 0xBC, 0xDE, 0x30, 0x03] = 0x00 := by decide +kernel

/-! ### Well-formedness: one ill-formed term for each check -/

theorem test_wellFormed_good : (Instr.rpsF6 f6).wellFormed = true := by decide +kernel

/-- 256 optional bytes do not fit the header's 8 bits. -/
def longOpt : Telegram := frameTelegram 0x01 f6.data (List.replicate 256 0)

theorem test_illFormed_lengths :
    longOpt.headerCrcOk = true ∧ longOpt.dataCrcOk = true ∧ longOpt.selects .rps = true ∧
    longOpt.lengthsFit = false ∧ (Instr.rpsF6 longOpt).wellFormed = false :=
  ⟨frameTelegram_headerCrcOk _ _ _, frameTelegram_dataCrcOk _ _ _, by decide +kernel, by decide +kernel, by decide +kernel⟩

theorem test_illFormed_headerCrc : (Instr.rpsF6 { f6 with hcrc := 0x10 }).wellFormed = false := by decide +kernel

theorem test_illFormed_dataCrc : (Instr.rpsF6 { f6 with dcrc := 0x02 }).wellFormed = false := by decide +kernel

theorem test_illFormed_row : (Instr.oneBsD50001 f6).wellFormed = false := by decide +kernel

/-! ### Decoding of written words -/

/-- V-P1 to V-P7, bit by bit from 30_encoding.md R70 and R71. -/
theorem test_decode_port :
    decode (.port 0b00_00000000#10) = .ok (.idle 0x00) ∧ decode (.port 0b00_11111111#10) = .ok (.idle 0xFF) ∧
    decode (.port 0b01_01010101#10) = .ok (.feed 0x55) ∧ decode (.port 0b01_00010010#10) = .ok (.feed 0x12) ∧
    decode (.port 0b10_00000000#10) = .ok (.reset 0x000) ∧ decode (.port 0b11_01010101#10) = .ok (.reset 0x155) ∧
    decode (.port 0b10_10101010#10) = .ok (.reset 0x0AA) := by decide +kernel

theorem test_decode_read : decode (.read 0x0B) = .ok (.regread 0x0B) := rfl

/-- The frames of V-D1 to V-D23 that decode, written out from 30_encoding.md R73 and R97, without optional bytes where section 2.6 gives none. -/
theorem test_decode_rps :
    decode (.frame [0x55, 0x00, 0x07, 0x00, 0x01, 0x11, 0xF6, 0x70, 0x78, 0x9A, 0xBC, 0xDE, 0x30, 0x03]) = .ok (.rpsF6 f6) := by
  decide +kernel

theorem test_decode_oneBs :
    decode (.frame [0x55, 0x00, 0x07, 0x07, 0x01, 0x7A, 0xD5, 0x09, 0x01, 0x02, 0x03, 0x04, 0x00,
      0x01, 0xFF, 0xFF, 0xFF, 0xFF, 0x2D, 0x00, 0xD0]) =
    .ok (.oneBsD50001 { pt := 0x01, hcrc := 0x7A, data := [0xD5, 0x09, 0x01, 0x02, 0x03, 0x04, 0x00], opt := [0x01, 0xFF, 0xFF, 0xFF, 0xFF, 0x2D, 0x00], dcrc := 0xD0 }) := by decide +kernel

theorem test_decode_fourBs :
    decode (.frame [0x55, 0x00, 0x0A, 0x07, 0x01, 0xEB, 0xA5, 0x00, 0x00, 0x80, 0x08, 0x01, 0x02, 0x03, 0x04, 0x00,
      0x01, 0xFF, 0xFF, 0xFF, 0xFF, 0x2D, 0x00, 0x4D]) =
    .ok (.fourBsA5 { pt := 0x01, hcrc := 0xEB, data := [0xA5, 0x00, 0x00, 0x80, 0x08, 0x01, 0x02, 0x03, 0x04, 0x00], opt := [0x01, 0xFF, 0xFF, 0xFF, 0xFF, 0x2D, 0x00], dcrc := 0x4D }) := by decide +kernel

theorem test_decode_teachIn :
    decode (.frame [0x55, 0x00, 0x06, 0x07, 0x01, 0x11, 0xD4, 0x05, 0x1A, 0x2B, 0x3C, 0x00,
      0x01, 0xFF, 0xFF, 0xFF, 0xFF, 0x2D, 0x00, 0xB8]) =
    .ok (.teachInD4 { pt := 0x01, hcrc := 0x11, data := [0xD4, 0x05, 0x1A, 0x2B, 0x3C, 0x00], opt := [0x01, 0xFF, 0xFF, 0xFF, 0xFF, 0x2D, 0x00], dcrc := 0xB8 }) := by decide +kernel

theorem test_decode_vld1441 :
    decode (.frame [0x55, 0x00, 0x12, 0x07, 0x01, 0x18, 0xD2, 0x14, 0x41, 0x0B, 0x80, 0x20, 0x12, 0x34, 0x7F, 0x99, 0xCC, 0xAB, 0xFE,
      0x05, 0x1A, 0x2B, 0x3C, 0x00, 0x01, 0xFF, 0xFF, 0xFF, 0xFF, 0x2D, 0x00, 0xDF]) =
    .ok (.vldD21441 { pt := 0x01, hcrc := 0x18, dcrc := 0xDF, opt := [0x01, 0xFF, 0xFF, 0xFF, 0xFF, 0x2D, 0x00], data := [0xD2, 0x14, 0x41, 0x0B, 0x80, 0x20, 0x12, 0x34, 0x7F, 0x99, 0xCC, 0xAB, 0xFE, 0x05, 0x1A, 0x2B, 0x3C, 0x00] }) := by
  decide +kernel

theorem test_decode_vld1440 :
    decode (.frame [0x55, 0x00, 0x12, 0x07, 0x01, 0x18, 0xD2, 0x14, 0x40, 0x0B, 0x80, 0x20, 0x12, 0x34, 0x7F, 0x99, 0xCC, 0xAB, 0xFE,
      0x05, 0x1A, 0x2B, 0x3C, 0x00, 0x01, 0xFF, 0xFF, 0xFF, 0xFF, 0x2D, 0x00, 0x66]) =
    .ok (.vldD21440 { pt := 0x01, hcrc := 0x18, dcrc := 0x66, opt := [0x01, 0xFF, 0xFF, 0xFF, 0xFF, 0x2D, 0x00], data := [0xD2, 0x14, 0x40, 0x0B, 0x80, 0x20, 0x12, 0x34, 0x7F, 0x99, 0xCC, 0xAB, 0xFE, 0x05, 0x1A, 0x2B, 0x3C, 0x00] }) := by
  decide +kernel

theorem test_decode_vld0112 :
    decode (.frame [0x55, 0x00, 0x0B, 0x07, 0x01, 0x80, 0xD2, 0x01, 0x12, 0x0B, 0x80, 0x20, 0x05, 0x1A, 0x2B, 0x3C, 0x00,
      0x01, 0xFF, 0xFF, 0xFF, 0xFF, 0x2D, 0x00, 0xD2]) =
    .ok (.vldD20112 { pt := 0x01, hcrc := 0x80, data := [0xD2, 0x01, 0x12, 0x0B, 0x80, 0x20, 0x05, 0x1A, 0x2B, 0x3C, 0x00], opt := [0x01, 0xFF, 0xFF, 0xFF, 0xFF, 0x2D, 0x00], dcrc := 0xD2 }) := by decide +kernel

theorem test_decode_vld0101 :
    decode (.frame [0x55, 0x00, 0x0A, 0x07, 0x01, 0xEB, 0xD2, 0x01, 0x01, 0x0B, 0x64, 0x05, 0x1A, 0x2B, 0x3C, 0x00,
      0x01, 0xFF, 0xFF, 0xFF, 0xFF, 0x2D, 0x00, 0x0A]) =
    .ok (.vldD20101 { pt := 0x01, hcrc := 0xEB, data := [0xD2, 0x01, 0x01, 0x0B, 0x64, 0x05, 0x1A, 0x2B, 0x3C, 0x00], opt := [0x01, 0xFF, 0xFF, 0xFF, 0xFF, 0x2D, 0x00], dcrc := 0x0A }) := by decide +kernel

theorem test_decode_vld0500 :
    decode (.frame [0x55, 0x00, 0x09, 0x07, 0x01, 0x56, 0xD2, 0x05, 0x00, 0x0B, 0x05, 0x1A, 0x2B, 0x3C, 0x00,
      0x01, 0xFF, 0xFF, 0xFF, 0xFF, 0x2D, 0x00, 0x58]) =
    .ok (.vldD20500 { pt := 0x01, hcrc := 0x56, data := [0xD2, 0x05, 0x00, 0x0B, 0x05, 0x1A, 0x2B, 0x3C, 0x00], opt := [0x01, 0xFF, 0xFF, 0xFF, 0xFF, 0x2D, 0x00], dcrc := 0x58 }) := by decide +kernel

theorem test_decode_unknownD2 :
    decode (.frame [0x55, 0x00, 0x09, 0x07, 0x01, 0x56, 0xD2, 0x99, 0x01, 0x0B, 0x05, 0x1A, 0x2B, 0x3C, 0x00,
      0x01, 0xFF, 0xFF, 0xFF, 0xFF, 0x2D, 0x00, 0xB4]) =
    .ok (.unknownD2 { pt := 0x01, hcrc := 0x56, data := [0xD2, 0x99, 0x01, 0x0B, 0x05, 0x1A, 0x2B, 0x3C, 0x00], opt := [0x01, 0xFF, 0xFF, 0xFF, 0xFF, 0x2D, 0x00], dcrc := 0xB4 }) := by decide +kernel

theorem test_decode_unknownRorg :
    decode (.frame [0x55, 0x00, 0x01, 0x07, 0x01, 0x07, 0xAA, 0x01, 0xFF, 0xFF, 0xFF, 0xFF, 0x2D, 0x00, 0x9B]) =
    .ok (.unknownRorg { pt := 0x01, hcrc := 0x07, data := [0xAA], opt := [0x01, 0xFF, 0xFF, 0xFF, 0xFF, 0x2D, 0x00], dcrc := 0x9B }) := by
  decide +kernel

/-- Each rejection by its name: a first byte that is not 0x55, V-SY3, V-V2, V-D25, V-D22, a frame cut short, and a byte after a frame. -/
theorem test_decode_rejections :
    decode (.frame [0x12, 0x34]) = .error .noSync ∧
    decode (.frame [0x55, 0x00, 0x07, 0x07, 0x01, 0x7B]) = .error .headerCrc ∧
    decode (.frame [0x55, 0x00, 0x07, 0x00, 0x01, 0x11, 0xF6, 0x70, 0x78, 0x9A, 0xBC, 0xDE, 0x30, 0x02]) = .error .dataCrc ∧
    decode (.frame [0x55, 0x00, 0x00, 0x00, 0x01, 0x07, 0x00]) = .error .emptyData ∧
    decode (.frame [0x55, 0x00, 0x08, 0x07, 0x01, 0x3D, 0xD2, 0x99, 0x01, 0x05, 0x1A, 0x2B, 0x3C, 0x00,
      0x01, 0xFF, 0xFF, 0xFF, 0xFF, 0x2D, 0x00, 0xF2]) = .error .shortVld ∧
    decode (.frame [0x55, 0x00, 0x07, 0x00, 0x01, 0x11, 0xF6, 0x70]) = .error .truncated ∧
    decode (.frame [0x55, 0x00, 0x07, 0x00, 0x01, 0x11, 0xF6, 0x70, 0x78, 0x9A, 0xBC, 0xDE, 0x30, 0x03, 0x55]) =
      .error .trailingBytes := by decide +kernel

/-- The rows of spec/opcode_table.json with every operand bit 0: the table's `match` column. -/
theorem test_decodeTableWord :
    decodeTableWord 16 0x200 = some (.reset 0) ∧ decodeTableWord 16 0x100 = some (.feed 0) ∧
    decodeTableWord 16 0x000 = some (.idle 0) ∧ decodeTableWord 8 0x00 = some (.regread 0) ∧
    decodeTableWord 24 0xF60000 = some (.rpsF6 (keyTelegram 0xF60000)) ∧
    decodeTableWord 24 0xD50000 = some (.oneBsD50001 (keyTelegram 0xD50000)) ∧
    decodeTableWord 24 0xA50000 = some (.fourBsA5 (keyTelegram 0xA50000)) ∧
    decodeTableWord 24 0xD40000 = some (.teachInD4 (keyTelegram 0xD40000)) ∧
    decodeTableWord 24 0xD21441 = some (.vldD21441 (keyTelegram 0xD21441)) ∧
    decodeTableWord 24 0xD21440 = some (.vldD21440 (keyTelegram 0xD21440)) ∧
    decodeTableWord 24 0xD20112 = some (.vldD20112 (keyTelegram 0xD20112)) ∧
    decodeTableWord 24 0xD20101 = some (.vldD20101 (keyTelegram 0xD20101)) ∧
    decodeTableWord 24 0xD20500 = some (.vldD20500 (keyTelegram 0xD20500)) ∧
    decodeTableWord 24 0xD20000 = some (.unknownD2 (keyTelegram 0xD20000)) ∧
    decodeTableWord 24 0x000000 = some (.unknownRorg (keyTelegram 0x000000)) := by decide +kernel

/-! ### One step of each instruction -/

/-- V-P6: RESET in the middle of a frame; the byte offered with it is not consumed. -/
theorem test_reset :
    (after (exec (.reset 0x155) (inFrame f6 3))).map (fun s => (s.dcnt, s.total, s.pt, statusWord s, s.out)) =
      some (0, 0, 0, 0, []) := by decide +kernel

/-- V-SY4, sixth byte: header 55 00 07 07 with 01 for its CRC CC; the replay finds the first byte again: STATUS 0x31. -/
theorem test_feed_mismatch :
    (after (exec (.feed 0x01) (inHeader ⟨0x55, 0x00, 0x07, 0x07, 0x00⟩ 4))).map
      (fun s => (s.out, statusWord s, s.cntHdrCrc, s.cntError, s.cntSyncDiscard, s.hbuf)) =
      some ([.hdrCrcErr 0x55 0x00 0x07 0x07 0x01 0xCC], 0x31, 1, 1, 0, ⟨0x00, 0x07, 0x07, 0x01, 0x01⟩) := by decide +kernel

/-- V-V2: the last byte of the F6 frame is 02, computed 03. -/
theorem test_feed_dataCrc :
    (after (exec (.feed 0x02) (inFrame f6 7))).map (fun s => (s.out, s.cntDataCrc, s.cntError, s.cntValid, statusWord s)) =
      some ([.dataCrcErr { f6 with dcrc := 0x02 } 0x03], 1, 1, 0, 0) := by decide +kernel

/-- IDLE in the middle of a frame changes nothing. -/
theorem test_idle : after (exec (.idle 0xFF) (inFrame f6 3)) = some (inFrame f6 3) := rfl

/-- V-R4 and V-R6: STATUS after four header bytes, HDR_LATCH of a frame with `dl` 7, `ol` 7, type 1, and a reserved address. -/
theorem test_regread :
    (after (exec (.regread 0x00) (inHeader ⟨0x00, 0x07, 0x07, 0x01, 0x00⟩ 4))).bind State.readData = some 0x00000031 ∧
    (after (exec (.regread 0x03) { State.reset with dl := 7, ol := 7, pt := 1 })).bind State.readData = some 0x01070007 ∧
    (after (exec (.regread 0x0D) { State.reset with cntError := 5 })).bind State.readData = some 0 := by decide +kernel

/-- V-F1, the source's worked example. -/
theorem test_rps :
    decodedFields (exec (.rpsF6 f6) State.reset) = some (.rps {
      action := 0x70, button := 1, buttonName := "button_b", position := 1, pressed := true, lowNibble := 0
      buttonAPressed := false, buttonBPressed := true, buttonCPressed := false, buttonDPressed := false }) ∧
    decodedSender (exec (.rpsF6 f6) State.reset) = some (0x789ABCDE, 0x30) := by decide +kernel

/-- V-F11: released, button D, position 1, low nibble F. -/
theorem test_rps_released :
    decodedFields (exec (.rpsF6 (carrying [0xF6, 0xEF, 0x78, 0x9A, 0xBC, 0xDE, 0x30])) State.reset) = some (.rps {
      action := 0xEF, button := 3, buttonName := "button_d", position := 1, pressed := false, lowNibble := 0xF
      buttonAPressed := false, buttonBPressed := false, buttonCPressed := false, buttonDPressed := false }) := by
  decide +kernel

/-- V-B5: state 0xFE is open. -/
theorem test_oneBs :
    decodedFields (exec (.oneBsD50001 (carrying [0xD5, 0xFE, 0x01, 0x02, 0x03, 0x04, 0x00])) State.reset) =
      some (.oneBs { state := 0xFE, contact := 0, closed := false }) := by decide +kernel

/-- V-D7. -/
theorem test_fourBs :
    decodedFields (exec (.fourBsA5 (carrying [0xA5, 0x00, 0x00, 0x80, 0x08, 0x01, 0x02, 0x03, 0x04, 0x00])) State.reset) =
      some (.fourBs { db3 := 0x00, db2 := 0x00, db1 := 0x80, db0 := 0x08, lrn := 1 }) := by decide +kernel

/-- V-D10. -/
theorem test_teachIn :
    decodedFields (exec (.teachInD4 (carrying [0xD4, 0xA0, 0x02, 0x46, 0x00, 0x12, 0x05, 0x1A, 0x2B, 0x3C, 0x00])) State.reset) =
      some (.teachIn [0xA0, 0x02, 0x46, 0x00, 0x12]) := by decide +kernel

/-- V-M2. -/
theorem test_vld1441 :
    decodedFields (exec (.vldD21441 (carrying [0xD2, 0x14, 0x41, 0x0B, 0xFF, 0xFF, 0xFF, 0xFF, 0x00, 0xFF, 0x80, 0x00, 0x01,
      0x05, 0x1A, 0x2B, 0x3C, 0x00])) State.reset) = some (.vld1441 {
        sensors := {
          mfgId := 0x0B, tempRaw := 1023, humRaw := 63, illumRaw := 65535, accXRaw := 0x00, accYRaw := 0xFF, accZRaw := 0x80
          temperatureC := 60, humidityPercent := 100, illuminationLx := 100000, accXG := -5 / 2, accYG := 5 / 2, accZG := 1 / 102 }
        magnet := 1, magnetOpen := true }) := by decide +kernel

/-- V-M3 with TYPE 0x40. -/
theorem test_vld1440 :
    decodedFields (exec (.vldD21440 (carrying [0xD2, 0x14, 0x40, 0x0B, 0x80, 0x20, 0x12, 0x34, 0x7F, 0x99, 0xCC, 0xAB, 0xFE,
      0x05, 0x1A, 0x2B, 0x3C, 0x00])) State.reset) = some (.vld1440 {
        mfgId := 0x0B, tempRaw := 512, humRaw := 32, illumRaw := 0x1234, accXRaw := 0x7F, accYRaw := 0x99, accZRaw := 0xCC
        temperatureC := 10280 / 1023, humidityPercent := 3200 / 63, illuminationLx := 93200000 / 13107
        accXG := -1 / 102, accYG := 1 / 2, accZG := 3 / 2 }) := by decide +kernel

/-- V-D17. -/
theorem test_vld0112 :
    decodedFields (exec (.vldD20112 (carrying [0xD2, 0x01, 0x12, 0x0B, 0x80, 0x20, 0x05, 0x1A, 0x2B, 0x3C, 0x00])) State.reset) =
      some (.vld0112 {
        mfgId := 0x0B, tempRaw := 512, humRaw := 32, temperatureC := 10280 / 1023, humidityPercent := 3200 / 63 }) := by
  decide +kernel

/-- V-D19. -/
theorem test_vld0101 :
    decodedFields (exec (.vldD20101 (carrying [0xD2, 0x01, 0x01, 0x0B, 0x64, 0x05, 0x1A, 0x2B, 0x3C, 0x00])) State.reset) =
      some (.vld0101 { mfgId := 0x0B, raw := [0x64] }) := by decide +kernel

/-- V-D20. -/
theorem test_vld0500 :
    decodedFields (exec (.vldD20500 (carrying [0xD2, 0x05, 0x00, 0x0B, 0x05, 0x1A, 0x2B, 0x3C, 0x00])) State.reset) =
      some (.vld0500 { mfgId := 0x0B, raw := [] }) := by decide +kernel

/-- V-D21. -/
theorem test_unknownD2 :
    (after (exec (.unknownD2 (carrying [0xD2, 0x99, 0x01, 0x0B, 0x05, 0x1A, 0x2B, 0x3C, 0x00])) State.reset)).map
      (fun s => (s.out, s.cntUnknown, s.cntError)) =
      some ([.unknown (carrying [0xD2, 0x99, 0x01, 0x0B, 0x05, 0x1A, 0x2B, 0x3C, 0x00]) 0xD2 (some 0x99) (some 0x01)
        [0xD2, 0x99, 0x01, 0x0B, 0x05, 0x1A, 0x2B, 0x3C, 0x00]], 1, 0) := by decide +kernel

/-- V-D24. -/
theorem test_unknownRorg :
    (after (exec (.unknownRorg (carrying [0xAA])) State.reset)).map (fun s => (s.out, s.cntUnknown, s.cntError)) =
      some ([.unknown (carrying [0xAA]) 0xAA none none [0xAA]], 1, 0) := by decide +kernel

/-- V-D14: a D2-14-41 telegram with `dl` 17 is not unpacked. -/
theorem test_vld1441_short :
    (after (exec (.vldD21441 (carrying ([0xD2, 0x14, 0x41, 0x0B] ++ List.replicate 8 0x00 ++ [0x05, 0x1A, 0x2B, 0x3C, 0x00])))
      State.reset)).map (fun s => (s.cntLenMismatch, s.cntError, s.cntDecoded)) = some (1, 1, 0) := by decide +kernel

/-- L1.8: with (min, max) = (0, 40), raw 0x80 is 1024/51. -/
theorem test_a5_scaling :
    a5Value { sel := .db1, min := 0, max := 40 } { db3 := 0, db2 := 0, db1 := 0x80, db0 := 0x08, lrn := 1 } = 1024 / 51 := by
  decide +kernel

/-- A placed dispatch key runs its row in the very next step: the reading of an F6 telegram of zeros. -/
theorem test_placed_key :
    (after (step (State.reset.withFetchWord 24 0xF60000))).map (fun s => (s.cntValid, s.cntDecoded, s.out.length, s.requests)) =
      some (1, 1, 1, []) := by decide +kernel

/-! ### Witnesses: for each obligation with hypotheses, values that meet them all -/

/-- A state in the middle of a frame meets the invariant. -/
theorem inFrame_inv {t : Telegram} (hl : t.lengthsFit = true) (hh : t.headerCrcOk = true) {n : Nat}
    (hn : n ≤ t.data.length + t.opt.length) : Inv (inFrame t n) := by
  have e1 := dl_toNat hl
  have e2 := ol_toNat hl
  have b1 := t.dl.isLt
  have b2 := t.ol.isLt
  have ht : (totalLength t.dl t.ol).toNat = t.dl.toNat + t.ol.toNat + 1 := by
    simp [totalLength, BitVec.toNat_add]; omega
  have hd : (BitVec.ofNat 17 n).toNat = n := by rw [BitVec.toNat_ofNat]; omega
  have hlen : ((t.data ++ t.opt).take n).length = n := by simp; omega
  have hfit : 0 + ((t.data ++ t.opt).take n).length ≤ Config.fbufBytes := by rw [hlen]; unfold Config.fbufBytes; omega
  simp only [Telegram.headerCrcOk, beq_iff_eq] at hh
  exact {
    fsmVisible := fun h => nomatch h
    headerCount := Nat.zero_le _
    headerCountZero := fun _ => rfl
    lengths := .inl ht
    progress := by show (BitVec.ofNat 17 n).toNat ≤ (totalLength t.dl t.ol).toNat; omega
    latchedCrc := hh
    memory := memSetList_wf reset_memory_wf 0 _ hfit
    frame := fun _ => ⟨by show (BitVec.ofNat 17 n).toNat < (totalLength t.dl t.ol).toNat; omega, (t.data ++ t.opt).take n,
      hlen.trans hd.symm, holdsBytes_memSetList _ _, rfl⟩ }

theorem f6_fits : f6.lengthsFit = true ∧ f6.headerCrcOk = true ∧ f6.dataCrcOk = true := by decide +kernel

theorem midFrame_inv : Inv (inFrame f6 3) := inFrame_inv f6_fits.1 f6_fits.2.1 (by decide)

theorem lastByte_inv : Inv (inFrame f6 7) := inFrame_inv f6_fits.1 f6_fits.2.1 (by decide)

/-- Four header bytes taken, the fifth awaited. -/
theorem fourthHeaderByte_inv : Inv (inHeader ⟨0x00, 0x07, 0x00, 0x01, 0x00⟩ 4) where
  fsmVisible := fun h => nomatch h
  headerCount := by decide
  headerCountZero := fun h => absurd rfl h
  lengths := .inr ⟨rfl, rfl, rfl⟩
  progress := by decide
  latchedCrc := by decide +kernel
  memory := reset_memory_wf
  frame := fun h => nomatch h

/-- A state that seeks a sync byte after discarding one. -/
theorem seeking_inv : Inv { State.reset with cntSyncDiscard := 1 } where
  fsmVisible := fun h => nomatch h
  headerCount := by decide
  headerCountZero := fun _ => rfl
  lengths := .inr ⟨rfl, rfl, rfl⟩
  progress := by decide
  latchedCrc := by decide +kernel
  memory := reset_memory_wf
  frame := fun h => nomatch h

/-- Invariant and step: the frame's third byte is fed. -/
theorem witness_StepKeepsInvariant : ∃ s s' : State, Inv s ∧ step s = .next s' ∧ s'.dcnt = 4 := by
  have h := midFrame_inv
  exact ⟨{ inFrame f6 3 with requests := [.port 0x19A] }, _,
    ⟨h.fsmVisible, h.headerCount, h.headerCountZero, h.lengths, h.progress, h.latchedCrc, h.memory, h.frame⟩, rfl, rfl⟩

theorem witness_StepKeepsCounterLaws : ∃ s s' : State, counterLaws s ∧ s.cntValid = 4 ∧ step s = .next s' :=
  ⟨{ State.reset with cntValid := 4, cntLenMismatch := 1, cntUnknown := 1, cntDecoded := 2, cntError := 2, cntDataCrc := 1 }, _,
    by decide, rfl, rfl⟩

/-- One state for each of the three synchronizer states that are visible. -/
theorem witness_StatusWordValues :
    Inv { State.reset with cntSyncDiscard := 1 } ∧ Inv (inHeader ⟨0x00, 0x07, 0x00, 0x01, 0x00⟩ 4) ∧ Inv (inFrame f6 3) :=
  ⟨seeking_inv, fourthHeaderByte_inv, midFrame_inv⟩

theorem witness_StepRunsPortWord :
    (offer (.port 0x155) State.reset).requests = [.port 0x155] ∧ State.reset.requests = [] := ⟨rfl, rfl⟩

theorem witness_StepRunsRegisterRead : (offer (.read 0x0C) State.reset).requests = [.read 0x0C] := rfl

theorem witness_PlacedKeyRunsItsRow : 0xFFFFFF < 2 ^ 24 ∧ 0 < 2 ^ 24 := by decide

/-- A FEED in READING_DATA, and an index it does not store to; a FEED in SEEKING_SYNC. -/
theorem witness_FeedStoresOnlyAtProgress :
    (∃ s', exec (.feed 0x9A) (inFrame f6 3) = .next s') ∧ (inFrame f6 3).fsm = .readingData ∧
    ¬ ((inFrame f6 3).fsm = .readingData ∧ 0 = (inFrame f6 3).dcnt.toNat) ∧
    ∃ s', exec (.feed 0x12) State.reset = .next s' := ⟨⟨_, rfl⟩, rfl, by decide, ⟨_, rfl⟩⟩

/-- The expansions printed in 95_test_vectors.md sections 1 and 3. -/
theorem test_pseudo_instructions :
    (TestLine.badData 0x01 [0xF6, 0x70, 0x78, 0x9A, 0xBC, 0xDE, 0x30] []).expand = (TestLine.feeds [0x55, 0x00, 0x07,
      0x00, 0x01, 0x11, 0xF6, 0x70, 0x78, 0x9A, 0xBC, 0xDE, 0x30, 0x02]).expand ∧
    (TestLine.badHdr 0x01 [0xF6, 0x70, 0x78, 0x9A, 0xBC, 0xDE, 0x30] []).expand = (TestLine.feeds [0x55, 0x00, 0x07,
      0x00, 0x01, 0x10, 0xF6, 0x70, 0x78, 0x9A, 0xBC, 0xDE, 0x30, 0x03]).expand ∧
    (TestLine.radio [0xD5, 0x08, 0x01, 0x02, 0x03, 0x04, 0x00] #v[0x01, 0xFF, 0xFF, 0xFF, 0xFF, 0x2D, 0x00]).expand =
      (TestLine.feeds [0x55, 0x00, 0x07, 0x07, 0x01, 0x7A, 0xD5, 0x08, 0x01, 0x02, 0x03, 0x04, 0x00,
        0x01, 0xFF, 0xFF, 0xFF, 0xFF, 0x2D, 0x00, 0x44]).expand ∧
    (TestLine.frame 0x01 [] []).expand = (TestLine.feeds [0x55, 0x00, 0x00, 0x00, 0x01, 0x07, 0x00]).expand ∧
    (TestLine.feed 0x55).expand = [.port 0x155] := by decide +kernel

/-- Both sides of the end of the buffer; a RESET in the middle of a frame. -/
theorem witness_FbufIsByteArray :
    (0 < 65791 ∧ 65790 < 65791 ∧ 65791 ≤ 65791) ∧ ∃ s', exec (.reset 0) (inFrame f6 3) = .next s' :=
  ⟨by decide, _, rfl⟩

/-- An index that nothing has written reads, and reads as its free value, new after each RESET (93_implementation_defined.md U2). -/
theorem test_unwritten_index :
    loadByte State.reset.freeCount State.reset.fbuf 5 = .ok (Config.unspecifiedFbuf 0 5) ∧
    (after (exec (.reset 0) (inFrame f6 3))).map (fun s => fbufByte s.freeCount s.fbuf 0) = some (Config.unspecifiedFbuf 1 0) :=
  ⟨rfl, rfl⟩

theorem witness_IdleChangesNothing : ((0xFF : BitVec 10).toNat < 256) ∧ decodePort 0xFF = .idle 0xFF := by decide

theorem witness_IdlesAndReadsAreTransparent :
    ∃ p, trace [.port 0x000, .port 0x155, .read 0x00] State.reset = some p := ⟨_, rfl⟩

/-- Both ends of each range of port words. -/
theorem witness_PortWordIsOneTransaction :
    (1023#10).toNat ≥ 512 ∧ (512#10).toNat ≥ 512 ∧ (256 ≤ (511#10).toNat ∧ (511#10).toNat < 512) ∧
    (256 ≤ (256#10).toNat ∧ (256#10).toNat < 512) ∧ (255#10).toNat < 256 ∧ (0#10).toNat < 256 := by decide

theorem witness_DecodeEncodeRoundTrip :
    (Instr.rpsF6 f6).wellFormed = true ∧ (Instr.unknownRorg (frameTelegram 0xFF [0xAA] [])).wellFormed = true ∧
    (Instr.vldD20500 (frameTelegram 0x01 [0xD2, 0x05, 0x00, 0x0B, 0x05, 0x1A, 0x2B, 0x3C, 0x00] [])).wellFormed = true := by
  decide +kernel

theorem witness_FrameEndFoundFromHeader : f6.lengthsFit = true ∧ f6.headerCrcOk = true ∧ f6.dataCrcOk = true := f6_fits

theorem witness_DecodedFrameReencodes :
    decodeFrameTelegram [0x55, 0x00, 0x07, 0x00, 0x01, 0x11, 0xF6, 0x70, 0x78, 0x9A, 0xBC, 0xDE, 0x30, 0x03, 0x99] =
      .ok (f6, [0x99]) := by decide +kernel

/-- The longest D2 portion that selects no row, the shortest that selects one, and a RORG that no row names. -/
theorem witness_DispatchMapSelectsRow :
    (List.replicate 7 (0x00 : Byte)).length < 8 ∧ 6 ≤ (List.replicate 6 (0x00 : Byte)).length ∧
    ((0xAA : Byte) ≠ 0xF6 ∧ (0xAA : Byte) ≠ 0xD5 ∧ (0xAA : Byte) ≠ 0xA5 ∧ (0xAA : Byte) ≠ 0xD4 ∧ (0xAA : Byte) ≠ 0xD2) := by decide

theorem witness_CrcLinearAndResidue : ([0x01, 0x02] : List Byte).length = ([0x03, 0x04] : List Byte).length := rfl

/-- One flipped bit; a burst of 8 across two bytes; bits 0 and 127 of sixteen bytes. -/
theorem witness_CrcDetectsErrors :
    (bitsOf [0x00, 0x10]).count true % 2 = 1 ∧
    (true ∈ bitsOf [0x08, 0x10] ∧ ∀ j, (bitsOf [0x08, 0x10])[j]? = some true → 4 ≤ j ∧ j < 4 + 8) ∧
    ∀ j, (bitsOf ([0x80] ++ List.replicate 14 0x00 ++ [0x01]))[j]? = some true ↔ (j = 0 ∨ j = 0 + 127) := by
  refine ⟨by decide, ⟨by decide, fun j h => ?_⟩, fun j => ?_⟩
  · have hj : j < 16 := by
      by_contra hge
      rw [List.getElem?_eq_none (by simpa [bitsOf, byteBits] using hge)] at h
      cases h
    interval_cases j <;> first | decide | exact absurd h (by decide)
  · by_cases hj : j < 128
    · have all : ∀ j < 128, (bitsOf ([0x80] ++ List.replicate 14 0x00 ++ [0x01]))[j]? = some true ↔ (j = 0 ∨ j = 0 + 127) := by
        decide +kernel
      exact all j hj
    · rw [List.getElem?_eq_none (by simpa [bitsOf, byteBits] using hj)]
      constructor
      · intro h; cases h
      · rintro (h | h) <;> omega

theorem witness_FeedSyncStartsHeader : State.reset.fsm = .seekingSync := rfl

theorem witness_FeedStrayByteIsCounted : State.reset.fsm = .seekingSync ∧ (0x54 : Byte) ≠ 0x55 := by decide

theorem witness_FeedHeaderByteAccumulates :
    (inHeader ⟨0, 0, 0, 0, 0⟩ 0).fsm = .readingHeader ∧ (inHeader ⟨0, 0, 0, 0, 0⟩ 0).hcnt.toNat ≤ 3 ∧
    (inHeader ⟨0, 7, 7, 0, 0⟩ 3).hcnt.toNat ≤ 3 := by decide

theorem witness_FeedHeaderMatchLatches :
    (inHeader ⟨0x00, 0x07, 0x07, 0x01, 0x00⟩ 4).fsm = .readingHeader ∧ (inHeader ⟨0x00, 0x07, 0x07, 0x01, 0x00⟩ 4).hcnt.toNat = 4 ∧
    crc8 [0x00, 0x07, 0x07, 0x01] = 0x7A := by decide +kernel

theorem witness_FeedHeaderMismatchReplays :
    (inHeader ⟨0x55, 0x00, 0x07, 0x07, 0x00⟩ 4).fsm = .readingHeader ∧ (inHeader ⟨0x55, 0x00, 0x07, 0x07, 0x00⟩ 4).hcnt.toNat = 4 ∧
    crc8 [0x55, 0x00, 0x07, 0x07] ≠ 0x01 := by decide +kernel

/-- A short frame, and the last but one byte of the longest. -/
theorem witness_FeedDataByteIsBuffered :
    ((inFrame f6 3).fsm = .readingData ∧ (inFrame f6 3).dcnt.toNat + 1 < (inFrame f6 3).total.toNat ∧
      (inFrame f6 3).total.toNat ≤ 65791) ∧
    ({ State.reset with fsm := .readingData, dcnt := 65789, total := 65791 } : State).dcnt.toNat + 1 <
      ({ State.reset with fsm := .readingData, dcnt := 65789, total := 65791 } : State).total.toNat := by decide +kernel

/-- What the two statements on a frame's last byte share. -/
theorem lastByte_hypotheses :
    (inFrame f6 7).fsm = .readingData ∧ (inFrame f6 7).total.toNat = (inFrame f6 7).dl.toNat + (inFrame f6 7).ol.toNat + 1 ∧
    (inFrame f6 7).dcnt.toNat + 1 = (inFrame f6 7).total.toNat ∧
    loadBytes (inFrame f6 7).freeCount (inFrame f6 7).fbuf 0 (inFrame f6 7).dl.toNat = .ok f6.data ∧
    loadBytes (inFrame f6 7).freeCount (inFrame f6 7).fbuf (inFrame f6 7).dl.toNat (inFrame f6 7).ol.toNat = .ok [] := by decide +kernel

theorem witness_FrameEndDataCrcMismatch :
    ((inFrame f6 7).fsm = .readingData ∧ (inFrame f6 7).total.toNat = (inFrame f6 7).dl.toNat + (inFrame f6 7).ol.toNat + 1 ∧
      (inFrame f6 7).dcnt.toNat + 1 = (inFrame f6 7).total.toNat ∧
      loadBytes (inFrame f6 7).freeCount (inFrame f6 7).fbuf 0 (inFrame f6 7).dl.toNat = .ok f6.data ∧
      loadBytes (inFrame f6 7).freeCount (inFrame f6 7).fbuf (inFrame f6 7).dl.toNat (inFrame f6 7).ol.toNat = .ok []) ∧
    (inFrame f6 7).dacc ≠ 0x02 := ⟨lastByte_hypotheses, by decide +kernel⟩

theorem witness_FrameEndDispatchesTelegram :
    ((inFrame f6 7).fsm = .readingData ∧ (inFrame f6 7).total.toNat = (inFrame f6 7).dl.toNat + (inFrame f6 7).ol.toNat + 1 ∧
      (inFrame f6 7).dcnt.toNat + 1 = (inFrame f6 7).total.toNat ∧
      loadBytes (inFrame f6 7).freeCount (inFrame f6 7).fbuf 0 (inFrame f6 7).dl.toNat = .ok f6.data ∧
      loadBytes (inFrame f6 7).freeCount (inFrame f6 7).fbuf (inFrame f6 7).dl.toNat (inFrame f6 7).ol.toNat = .ok []) ∧
    (inFrame f6 7).dacc = 0x03 := ⟨lastByte_hypotheses, by decide +kernel⟩

theorem lastByte_mismatch_event : events (exec (.feed 0x02) (inFrame f6 7)) = some [.dataCrcErr { f6 with dcrc := 0x02 } 0x03] := by
  decide +kernel

theorem witness_FeedEmitsAtMostOneEvent : ∃ s', exec (.feed 0x02) (inFrame f6 7) = .next s' :=
  (next_of_events lastByte_mismatch_event).imp fun _ h => h.1

theorem witness_FeedNeverRefusesByte : Inv (inFrame f6 7) ∧ Inv (inHeader ⟨0x00, 0x07, 0x00, 0x01, 0x00⟩ 4) :=
  ⟨lastByte_inv, fourthHeaderByte_inv⟩

theorem witness_FrameFedReachesOutcome :
    f6.lengthsFit = true ∧ f6.headerCrcOk = true ∧ State.reset.fsm = .seekingSync ∧
    ({ f6 with dcrc := 0x02 } : Telegram).headerCrcOk = true ∧ ({ f6 with dcrc := 0x02 } : Telegram).dataCrcOk = false := by
  decide +kernel

theorem witness_StreamMatchesSlidingWindow : State.reset.fsm = .seekingSync := rfl

theorem witness_FrameEndCrcCoversPayload :
    Inv (inFrame f6 7) ∧ (inFrame f6 7).fsm = .readingData ∧ (inFrame f6 7).dcnt.toNat + 1 = (inFrame f6 7).total.toNat :=
  ⟨lastByte_inv, lastByte_hypotheses.1, lastByte_hypotheses.2.2.1⟩

theorem lastByte_match_event :
    events (exec (.feed 0x03) (inFrame f6 7)) = some [.decoded f6 (reading .rps f6.data (.rps {
      action := 0x70, button := 1, buttonName := "button_b", position := 1, pressed := true, lowNibble := 0
      buttonAPressed := false, buttonBPressed := true, buttonCPressed := false, buttonDPressed := false }))] := by decide +kernel

/-- An F6 telegram with `dl` 7 is decoded, an F6 telegram of one byte is a length mismatch, an AA telegram is unknown (V-D4, V-D24 without optional bytes). -/
theorem witness_ReportedTelegramsPassedBothCrcs :
    (Inv (inFrame f6 7) ∧ ∃ r s', exec (.feed 0x03) (inFrame f6 7) = .next s' ∧ s'.out = [] ++ [.decoded f6 r]) ∧
    (Inv (inFrame (frameTelegram 1 [0xF6] []) 1) ∧ ∃ s', exec (.feed (crc8 [0xF6])) (inFrame (frameTelegram 1 [0xF6] []) 1) = .next s' ∧
      s'.out = [] ++ [.lenMismatch (frameTelegram 1 [0xF6] [])]) ∧
    (Inv (inFrame (frameTelegram 1 [0xAA] []) 1) ∧ ∃ s', exec (.feed (crc8 [0xAA])) (inFrame (frameTelegram 1 [0xAA] []) 1) = .next s' ∧
      s'.out = [] ++ [.unknown (frameTelegram 1 [0xAA] []) 0xAA none none [0xAA]]) :=
  ⟨⟨lastByte_inv, _, next_of_events lastByte_match_event⟩,
   ⟨inFrame_inv (by decide) (frameTelegram_headerCrcOk _ _ _) (by decide), next_of_events (by decide +kernel)⟩,
   ⟨inFrame_inv (by decide) (frameTelegram_headerCrcOk _ _ _) (by decide), next_of_events (by decide +kernel)⟩⟩

/-- The first and the last flip of each clause. -/
theorem witness_SingleBitFlipIsRejected :
    (f6.lengthsFit = true ∧ f6.headerCrcOk = true ∧ f6.dataCrcOk = true) ∧ State.reset.fsm = .seekingSync ∧
    (1 ≤ 1 ∧ 1 < (encodeFrame f6).length ∧ 0 < 8 ∧ 1 ≤ 5) ∧ (1 ≤ 5 ∧ 5 < (encodeFrame f6).length ∧ 7 < 8 ∧ 5 ≤ 5) ∧
    (1 ≤ 6 ∧ 6 < (encodeFrame f6).length ∧ 0 < 8 ∧ 6 ≤ 6) ∧ (1 ≤ 13 ∧ 13 < (encodeFrame f6).length ∧ 7 < 8 ∧ 6 ≤ 13) :=
  ⟨f6_fits, rfl, by decide⟩

theorem witness_DispatchRunsDecodedRow :
    decodeTelegram f6 = .ok (.rpsF6 f6) ∧ decodeTelegram (carrying []) = .error .emptyData ∧
    decodeTelegram (carrying [0xD2, 0x14, 0x41, 0x05, 0x1A, 0x2B, 0x3C, 0x00]) = .error .shortVld := by decide +kernel

/-- Each row's length rule failed by one byte. -/
theorem witness_RowLengthRuleRejects :
    (carrying (List.replicate 6 0)).data.length ≠ 7 ∧ (carrying (List.replicate 8 0)).data.length ≠ 7 ∧
    (carrying (List.replicate 11 0)).data.length ≠ 10 ∧ (carrying (List.replicate 5 0)).data.length < 6 ∧
    (carrying (List.replicate 17 0)).data.length ≠ 18 ∧ (carrying (List.replicate 10 0)).data.length < 11 ∧
    (carrying (List.replicate 8 0)).data.length < 9 ∧ (carrying []).data.length < 1 := by decide

theorem witness_UnknownRowsReportRecord :
    (6 ≤ ([0x0B, 0x05, 0x1A, 0x2B, 0x3C, 0x00] : List Byte).length ∧
      (carrying [0xD2, 0x99, 0x01, 0x0B, 0x05, 0x1A, 0x2B, 0x3C, 0x00]).data =
        0xD2 :: 0x99 :: 0x01 :: [0x0B, 0x05, 0x1A, 0x2B, 0x3C, 0x00]) ∧
    ((0xAA : Byte) ≠ 0xD2 ∧ (carrying [0xAA]).data = 0xAA :: []) := by decide

theorem witness_RpsDecodes : f6.data = [0xF6, 0x70, 0x78, 0x9A, 0xBC, 0xDE, 0x30] := rfl

theorem witness_OneBsDecodes :
    (carrying [0xD5, 0x09, 0x01, 0x02, 0x03, 0x04, 0x00]).data = [0xD5, 0x09, 0x01, 0x02, 0x03, 0x04, 0x00] := rfl

theorem witness_FourBsDecodes :
    (carrying [0xA5, 0x00, 0x00, 0x80, 0x08, 0x01, 0x02, 0x03, 0x04, 0x00]).data =
      [0xA5, 0x00, 0x00, 0x80, 0x08, 0x01, 0x02, 0x03, 0x04, 0x00] := rfl

theorem witness_FourBsScaleIsLinear :
    (a5Raw .db1 { db3 := 0, db2 := 0, db1 := 0, db0 := 0, lrn := 0 }).toNat = 0 ∧
    (a5Raw .db1 { db3 := 0, db2 := 0, db1 := 255, db0 := 0, lrn := 0 }).toNat = 255 ∧
    (a5Raw .db1 { db3 := 0, db2 := 0, db1 := 255, db0 := 0, lrn := 0 }).toNat =
      (a5Raw .db1 { db3 := 0, db2 := 0, db1 := 254, db0 := 0, lrn := 0 }).toNat + 1 := by decide

theorem witness_Vld1441Decodes :
    (carrying ([0xD2, 0x14, 0x41, 0x0B] ++ List.replicate 9 0xFF ++ [0x05, 0x1A, 0x2B, 0x3C, 0x00])).data =
      [0xD2, 0x14, 0x41, 0x0B, 0xFF, 0xFF, 0xFF, 0xFF, 0xFF, 0xFF, 0xFF, 0xFF, 0xFF, 0x05, 0x1A, 0x2B, 0x3C, 0x00] := rfl

theorem witness_Vld1440Decodes :
    (carrying ([0xD2, 0x14, 0x40, 0x0B] ++ List.replicate 9 0x00 ++ [0x05, 0x1A, 0x2B, 0x3C, 0x00])).data =
      [0xD2, 0x14, 0x40, 0x0B, 0x00, 0x00, 0x00, 0x00, 0x00, 0x00, 0x00, 0x00, 0x00, 0x05, 0x1A, 0x2B, 0x3C, 0x00] := rfl

/-- No further profile byte, and one. -/
theorem witness_Vld0112Decodes :
    (carrying [0xD2, 0x01, 0x12, 0x0B, 0x80, 0x20, 0x05, 0x1A, 0x2B, 0x3C, 0x00]).data =
      [0xD2, 0x01, 0x12, 0x0B, 0x80, 0x20] ++ [] ++ [0x05, 0x1A, 0x2B, 0x3C, 0x00] ∧
    (carrying [0xD2, 0x01, 0x12, 0x0B, 0x80, 0x20, 0x99, 0x05, 0x1A, 0x2B, 0x3C, 0x00]).data =
      [0xD2, 0x01, 0x12, 0x0B, 0x80, 0x20] ++ [0x99] ++ [0x05, 0x1A, 0x2B, 0x3C, 0x00] := ⟨rfl, rfl⟩

theorem witness_VldRawProfilesDecode :
    (carrying [0xD2, 0x01, 0x01, 0x0B, 0x64, 0x05, 0x1A, 0x2B, 0x3C, 0x00]).data =
      [0xD2, 0x01, 0x01, 0x0B] ++ [0x64] ++ [0x05, 0x1A, 0x2B, 0x3C, 0x00] ∧
    (carrying [0xD2, 0x05, 0x00, 0x0B, 0x05, 0x1A, 0x2B, 0x3C, 0x00]).data =
      [0xD2, 0x05, 0x00, 0x0B] ++ [] ++ [0x05, 0x1A, 0x2B, 0x3C, 0x00] := ⟨rfl, rfl⟩

theorem witness_TeachInDecodes :
    (carrying [0xD4, 0x05, 0x1A, 0x2B, 0x3C, 0x00]).data = [0xD4] ++ [] ++ [0x05, 0x1A, 0x2B, 0x3C, 0x00] := rfl

theorem witness_FramedProfileRoundTrip :
    State.reset.fsm = .seekingSync ∧ f6.data.length < 65536 ∧ ([] : List Byte).length < 256 ∧
    ∃ f, verdict f6.data = .decoded (reading .rps f6.data f) := ⟨rfl, by decide, by decide, _, rfl⟩

/-- A FEED with no event, and one with each kind of event that the block can emit from a short state. -/
theorem witness_EventTellsItsCounters :
    (∃ s', exec (.feed 0x9A) (inFrame f6 3) = .next s' ∧ s'.out = (inFrame f6 3).out) ∧
    (∃ e s', exec (.feed 0x02) (inFrame f6 7) = .next s' ∧ s'.out = (inFrame f6 7).out ++ [e]) ∧
    (∃ e s', exec (.feed 0x03) (inFrame f6 7) = .next s' ∧ s'.out = (inFrame f6 7).out ++ [e]) ∧
    Counter.valid ≠ Counter.syncDiscard :=
  ⟨⟨_, rfl, rfl⟩, ⟨_, next_of_events lastByte_mismatch_event⟩, ⟨_, next_of_events lastByte_match_event⟩, by decide⟩

theorem witness_NoDecodeErrorEver : ∃ s', step (inFrame f6 3) = .next s' := ⟨_, rfl⟩

theorem witness_SecondResetChangesNothing :
    ∃ s1 s2, exec (.reset 0) (inFrame f6 3) = .next s1 ∧ exec (.reset 0x1FF) s1 = .next s2 := ⟨_, _, rfl, rfl⟩

end Sys2Proof.Tests
end

/-! The register read port (10_state.md R34 to R36): each word of the register map as a number, and the read itself. -/
namespace Sys2Proof.Machine

/-! ### Concatenated fields as numbers -/

theorem toNat_append_eq_mul_add {m n : Nat} (a : BitVec m) (b : BitVec n) :
    (a ++ b).toNat = a.toNat * 2 ^ n + b.toNat := by
  rw [BitVec.toNat_append, ← Nat.shiftLeft_add_eq_or_of_lt b.isLt, Nat.shiftLeft_eq]

theorem framePending_toNat (s : State) : (framePending s).toNat = if s.fsm = .seekingSync then 0 else 1 := by
  rw [framePending]
  split <;> rfl

/-- STATUS by bit field: the state code at bit 0, `hcnt` at bit 2, `FRAME_PENDING` at bit 5 (10_state.md R35). -/
theorem statusWord_toNat (s : State) :
    (statusWord s).toNat = 32 * (framePending s).toNat + 4 * s.hcnt.toNat + (fsmCode s.fsm).toNat := by
  have hp := (framePending s).isLt
  have hh := s.hcnt.isLt
  have hf := (fsmCode s.fsm).isLt
  rw [statusWord, BitVec.toNat_setWidth, toNat_append_eq_mul_add, toNat_append_eq_mul_add]
  omega

/-- HDR_LATCH by bit field (10_state.md R34). -/
theorem headerLatch_eq_ofNat (pt ol : Byte) (dl : BitVec 16) :
    pt ++ ol ++ dl = BitVec.ofNat 32 (dl.toNat + 2 ^ 16 * ol.toNat + 2 ^ 24 * pt.toNat) := by
  have hp := pt.isLt
  have ho := ol.isLt
  have hd := dl.isLt
  apply BitVec.eq_of_toNat_eq
  rw [toNat_append_eq_mul_add, toNat_append_eq_mul_add, BitVec.toNat_ofNat]
  omega

/-! ### The register map, address by address -/

theorem regRead_status (s : State) :
    regRead 0x00 s = BitVec.ofNat 32 (32 * (framePending s).toNat + 4 * s.hcnt.toNat + (fsmCode s.fsm).toNat) := by
  rw [← statusWord_toNat, BitVec.ofNat_toNat, BitVec.setWidth_eq]
  rfl

theorem regRead_frameProgress (s : State) : regRead 0x01 s = BitVec.ofNat 32 s.dcnt.toNat :=
  (BitVec.ofNat_toNat 32 s.dcnt).symm

theorem regRead_frameTotal (s : State) : regRead 0x02 s = BitVec.ofNat 32 s.total.toNat :=
  (BitVec.ofNat_toNat 32 s.total).symm

theorem regRead_headerLatch (s : State) :
    regRead 0x03 s = BitVec.ofNat 32 (s.dl.toNat + 2 ^ 16 * s.ol.toNat + 2 ^ 24 * s.pt.toNat) :=
  headerLatch_eq_ofNat s.pt s.ol s.dl

theorem regRead_reserved {a : Byte} (h : 0x0C < a.toNat) (s : State) : regRead a s = 0 := by
  unfold regRead
  split
  iterate 13
    · omega
  · rfl

/-- The read itself: it answers on its port and writes nothing of the block (10_state.md R36). -/
theorem exec_regread_eq (a : Byte) (s : State) :
    exec (.regread a) s = .next { s with readData := some (regRead a s) } := rfl

/-- Settles O7, address by address: the four words of fields by their numbers, the nine counters as they stand, and 0 above 0x0C. -/
theorem registerReadAnswersMap : Obligations.RegisterReadAnswersMap := by
  intro a s
  rw [exec_regread_eq]
  congr 3
  symm
  refine ite_eq_iff'.2 ⟨?status, fun h0 => ite_eq_iff'.2 ⟨?frameProgress, fun h1 => ite_eq_iff'.2 ⟨?frameTotal,
    fun h2 => ite_eq_iff'.2 ⟨?headerLatch, fun h3 => ?counters⟩⟩⟩⟩
  case status =>
    rintro rfl
    rw [regRead_status, framePending_toNat]
    cases s.fsm <;> rfl
  case frameProgress => rintro rfl; rw [regRead_frameProgress]
  case frameTotal => rintro rfl; rw [regRead_frameTotal]
  case headerLatch => rintro rfl; rw [regRead_headerLatch]
  case counters =>
    refine ite_eq_iff'.2 ⟨(· ▸ rfl), fun h4 => ite_eq_iff'.2 ⟨(· ▸ rfl), fun h5 => ite_eq_iff'.2 ⟨(· ▸ rfl),
      fun h6 => ite_eq_iff'.2 ⟨(· ▸ rfl), fun h7 => ite_eq_iff'.2 ⟨(· ▸ rfl), fun h8 => ite_eq_iff'.2 ⟨(· ▸ rfl),
      fun h9 => ite_eq_iff'.2 ⟨(· ▸ rfl), fun hA => ite_eq_iff'.2 ⟨(· ▸ rfl), fun hB => ite_eq_iff'.2 ⟨(· ▸ rfl),
      fun hC => ?_⟩⟩⟩⟩⟩⟩⟩⟩⟩
    have above : 0x0C < a.toNat := by bv_omega
    exact (regRead_reserved above s).symm

end Sys2Proof.Machine

/-! The input port word (30_encoding.md R71, R72), `rst` in bit 9, `valid` in bit 8, the byte below: which transaction a word is, read off its value. -/
namespace Sys2Proof

/-! ### The parts of the word as numbers -/

theorem portWord_rst_eq (w : BitVec 10) : w.getLsbD 9 = decide (512 ≤ w.toNat) := w.msb_eq_decide

theorem portWord_valid_eq {w : BitVec 10} (h : w.toNat < 512) : w.getLsbD 8 = decide (256 ≤ w.toNat) := by
  rw [BitVec.getLsbD, Nat.testBit_eq_decide_div_mod_eq]
  exact decide_eq_decide.2 (by omega)

theorem portWord_byte_eq {w : BitVec 10} (lo : 256 ≤ w.toNat) (hi : w.toNat < 512) :
    w.extractLsb' 0 8 = BitVec.ofNat 8 (w.toNat - 256) := by
  apply BitVec.eq_of_toNat_eq
  rw [BitVec.extractLsb'_toNat, BitVec.toNat_ofNat, Nat.shiftRight_zero]
  omega

/-! ### The decode by the word's value -/

theorem decodePort_reset {w : BitVec 10} (h : 512 ≤ w.toNat) : decodePort w = .reset (w.extractLsb' 0 9) :=
  if_pos ((portWord_rst_eq w).trans (decide_eq_true h))

theorem decodePort_of_lt {w : BitVec 10} (h : w.toNat < 512) :
    decodePort w = if 256 ≤ w.toNat then .feed (w.extractLsb' 0 8) else .idle (w.extractLsb' 0 8) := by
  simp only [decodePort, portWord_rst_eq, portWord_valid_eq h, decide_eq_true_eq, Nat.not_le.2 h, if_false]

theorem decodePort_feed {w : BitVec 10} (lo : 256 ≤ w.toNat) (hi : w.toNat < 512) :
    decodePort w = .feed (BitVec.ofNat 8 (w.toNat - 256)) := by
  rw [decodePort_of_lt hi, if_pos lo, portWord_byte_eq lo hi]

theorem decodePort_idle {w : BitVec 10} (h : w.toNat < 256) : decodePort w = .idle (w.extractLsb' 0 8) := by
  rw [decodePort_of_lt (by omega), if_neg (by omega)]

/-! ### The ignored bits -/

theorem exec_reset_eq (x : BitVec 9) (s : Machine.State) : Machine.exec (.reset x) s = Machine.execReset s := rfl

theorem exec_idle_eq (x : Byte) (s : Machine.State) : Machine.exec (.idle x) s = Machine.execIdle s := rfl

/-- Settles O15: the word's value tells its transaction, RESET before the other two, and RESET and IDLE run without looking at the bits they keep. -/
theorem portWordIsOneTransaction : Obligations.PortWordIsOneTransaction :=
  ⟨fun _ h => ⟨_, decodePort_reset h⟩,
   fun _ lo hi => decodePort_feed lo hi,
   fun _ h => ⟨_, decodePort_idle h⟩,
   fun x y s => (exec_reset_eq x s).trans (exec_reset_eq y s).symm,
   fun x y s => (exec_idle_eq x s).trans (exec_idle_eq y s).symm⟩

end Sys2Proof

/-! FEED and IDLE as whole-state equations, one for each thing a byte can do (41_frame_assembler.md R121 to R141, R152), and from them that no state between steps refuses a byte (R145). -/
namespace Sys2Proof.Machine

theorem exec_feed_eq (b : Byte) (s : State) : exec (.feed b) s = execFeed b s := rfl

theorem ofNat_toNat_succ {w : Nat} (x : BitVec w) : BitVec.ofNat w (x.toNat + 1) = x + 1 := by
  rw [BitVec.ofNat_add, BitVec.ofNat_toNat, BitVec.setWidth_eq]
  rfl

/-! ### SEEKING_SYNC -/

theorem execFeed_sync {s : State} (h : s.fsm = .seekingSync) :
    execFeed 0x55 s = .next { s with fsm := .readingHeader, hcnt := 0 } :=
  (execFeed_seeking h).trans (if_pos rfl)

theorem execFeed_stray {b : Byte} {s : State} (h : s.fsm = .seekingSync) (hb : b ≠ 0x55) :
    execFeed b s = .next { s with cntSyncDiscard := s.cntSyncDiscard + 1 } :=
  (execFeed_seeking h).trans (if_neg hb)

/-- Settles O23: the sync branch of `consumeSeeking`. -/
theorem feedSyncStartsHeader : Obligations.FeedSyncStartsHeader :=
  fun s h => (exec_feed_eq 0x55 s).trans (execFeed_sync h)

/-! ### READING_HEADER -/

theorem setHeaderByte_of_le_three (h : HeaderBuf) {i : Nat} (hi : i ≤ 3) (b : Byte) :
    setHeaderByte h i b = some
      { b0 := if i = 0 then b else h.b0
        b1 := if i = 1 then b else h.b1
        b2 := if i = 2 then b else h.b2
        b3 := if i = 3 then b else h.b3
        b4 := h.b4 } := by
  interval_cases i <;> rfl

/-- Settles O25: what `execFeed_header` stores, with the store written out byte by byte. -/
theorem feedHeaderByteAccumulates : Obligations.FeedHeaderByteAccumulates := by
  intro s b hf hc
  obtain ⟨hb, hset, hfeed⟩ := execFeed_header (b := b) hf hc
  rw [setHeaderByte_of_le_three _ hc] at hset
  cases hset
  rw [exec_feed_eq, hfeed, ofNat_toNat_succ]

/-- The length sum is exact in 17 bits (10_state.md R25). -/
theorem totalLength_toNat (dl : BitVec 16) (ol : Byte) : (totalLength dl ol).toNat = dl.toNat + ol.toNat + 1 := by
  have hd := dl.isLt
  have ho := ol.isLt
  rw [totalLength]
  bv_omega

theorem append_eq_ofNat (a b : Byte) : a ++ b = BitVec.ofNat 16 (a.toNat * 256 + b.toNat) := by
  rw [← append_toNat, BitVec.ofNat_toNat, BitVec.setWidth_eq]

theorem totalLength_append (a b ol : Byte) :
    totalLength (a ++ b) ol = BitVec.ofNat 17 (a.toNat * 256 + b.toNat + ol.toNat + 1) := by
  rw [← append_toNat, ← totalLength_toNat, BitVec.ofNat_toNat, BitVec.setWidth_eq]

/-- The fifth header byte is the header CRC: the header with that byte is latched. -/
theorem execFeed_match {b : Byte} {s : State} (hf : s.fsm = .readingHeader) (hc : s.hcnt.toNat = 4)
    (hm : headerCalc s.hbuf = b) : execFeed b s = .next (latchHeader { s with hbuf := { s.hbuf with b4 := b } }) :=
  (execFeed_fifth hf hc).trans (validateHeader_match hm)

/-- Settles O26: `latchHeader`, with the two lengths as numbers. -/
theorem feedHeaderMatchLatches : Obligations.FeedHeaderMatchLatches := by
  intro s b hf hc hm
  rw [exec_feed_eq, execFeed_match hf hc hm, ← append_eq_ofNat, ← totalLength_append]
  rfl

/-! ### READING_DATA -/

/-- Settles O28: `consumeData_more`, whose index bound follows from the bound on `total`. -/
theorem feedDataByteIsBuffered : Obligations.FeedDataByteIsBuffered := by
  intro s b hf hlt hle
  have hi : s.dcnt.toNat < Config.fbufBytes := by unfold Config.fbufBytes; omega
  rw [exec_feed_eq, execFeed_data hf, consumeData_more hi hlt, ofNat_toNat_succ]

/-! ### IDLE -/

theorem idles_eq (xs : List Byte) (s : State) : consumeList (fun x t => exec (.idle x) t) xs s = .next s := by
  induction xs with
  | nil => rfl
  | cons x xs ih => exact ih

/-- Settles O34, the run of IDLEs by induction on it. -/
theorem idleChangesNothing : Obligations.IdleChangesNothing :=
  ⟨exec_idle_eq, fun w s hw => by rw [decodePort_idle hw]; exact exec_idle_eq _ s, idles_eq⟩

/-! ### The invariant across a FEED -/

/-- The latched header, the frame's progress and FBUF: outside a frame the invariant speaks of these and of `fsm` and `hcnt` only. -/
def frameFields (s : State) : BitVec 16 × Byte × Byte × Byte × BitVec 17 × BitVec 17 × List Host.Cell :=
  (s.dl, s.ol, s.pt, s.hcrc, s.total, s.dcnt, s.fbuf)

/-- Where the synchronizer stands when no payload is being read: `hcnt` counts header bytes, or is 0 (10_state.md R23). -/
def OutsideFrame (s : State) : Prop :=
  s.fsm = .readingHeader ∧ s.hcnt.toNat ≤ 4 ∨ s.fsm = .seekingSync ∧ s.hcnt = 0

/-- A step that leaves the frame's fields alone and ends outside a frame keeps the invariant. -/
theorem Inv.outsideFrame {s s' : State} (hi : Inv s) (hfr : frameFields s' = frameFields s) (ho : OutsideFrame s') :
    Inv s' := by
  simp only [frameFields, Prod.mk.injEq] at hfr
  obtain ⟨hdl, hol, hpt, hhcrc, htotal, hdcnt, hfbuf⟩ := hfr
  have hcnt : s'.hcnt.toNat ≤ 4 := by
    obtain ⟨-, h⟩ | ⟨-, h⟩ := ho
    · exact h
    · rw [h]; decide
  exact {
    fsmVisible := by obtain ⟨h, -⟩ | ⟨h, -⟩ := ho <;> simp [h]
    headerCount := hcnt
    headerCountZero := fun hne => (ho.resolve_left fun h => hne h.1).2
    lengths := by rw [htotal, hdl, hol]; exact hi.lengths
    progress := by rw [hdcnt, htotal]; exact hi.progress
    latchedCrc := by rw [hhcrc, hdl, hol, hpt]; exact hi.latchedCrc
    memory := by rw [hfbuf]; exact hi.memory
    frame := fun hd => by obtain ⟨h, -⟩ | ⟨h, -⟩ := ho <;> simp [h] at hd }

/-- A header that passed its CRC starts an empty frame. -/
theorem latchHeader_inv {s : State} (hmem : Memory.wf s.fbuf) (hm : headerCalc s.hbuf = s.hbuf.b4) :
    Inv (latchHeader s) where
  fsmVisible := fun h => nomatch h
  headerCount := Nat.zero_le _
  headerCountZero := fun _ => rfl
  lengths := .inl (totalLength_toNat _ _)
  progress := Nat.zero_le _
  latchedCrc := by
    simp only [latchHeader, extract_append_high, extract_append_low]
    exact hm.symm
  memory := hmem
  frame := fun _ => ⟨by simp only [latchHeader, totalLength_toNat]; exact Nat.succ_pos _, [], rfl, holdsBytes_nil _, rfl⟩

/-- No latched header announces more than FBUF holds (10_state.md R28). -/
theorem Inv.total_le {s : State} (hi : Inv s) : s.total.toNat ≤ Config.fbufBytes := by
  have hd := s.dl.isLt
  have ho := s.ol.isLt
  unfold Config.fbufBytes
  obtain h | ⟨h, -, -⟩ := hi.lengths
  · omega
  · rw [h]; decide

theorem Inv.dcnt_lt {s : State} (hi : Inv s) (hf : s.fsm = .readingData) : s.dcnt.toNat < Config.fbufBytes :=
  (hi.frame hf).1.trans_le hi.total_le

/-- A payload byte before the last one joins the bytes held and their CRC. -/
theorem Inv.bufferByte {s : State} (hi : Inv s) (hf : s.fsm = .readingData) (hlt : s.dcnt.toNat + 1 < s.total.toNat) (b : Byte) :
    Inv { s with fbuf := memSet s.fbuf s.dcnt.toNat b, dacc := crc8Update s.dacc b, dcnt := s.dcnt + 1 } := by
  obtain ⟨-, bs, hlen, hheld, hacc⟩ := hi.frame hf
  have hnext : (s.dcnt + 1).toNat = s.dcnt.toNat + 1 := by bv_omega
  exact { hi with
    progress := by rw [hnext]; exact hlt.le
    memory := memSet_wf hi.memory (hi.dcnt_lt hf) b
    frame := fun _ => ⟨by rw [hnext]; exact hlt, bs ++ [b], by rw [hnext, List.length_append, hlen]; rfl,
      by rw [← hlen]; exact hheld.snoc b, by rw [hacc]; exact crc8_snoc bs b⟩ }

/-- The last payload byte ends the frame: the block seeks a sync byte again. -/
theorem Inv.lastByte {s : State} (hi : Inv s) (hf : s.fsm = .readingData) (b : Byte) :
    Inv { s with fbuf := memSet s.fbuf s.dcnt.toNat b, dcnt := s.total, fsm := .seekingSync } :=
  have hc : s.hcnt = 0 := hi.headerCountZero (by simp [hf])
  { hi with
    fsmVisible := fun h => nomatch h
    headerCountZero := fun _ => hc
    progress := le_rfl
    memory := memSet_wf hi.memory (hi.dcnt_lt hf) b
    frame := fun h => nomatch h }

/-- The end of a frame always goes on, whatever its verdict, and touches counters and events only. -/
theorem completeFrame_goes (s : State) :
    ∃ s', completeFrame s = .next s' ∧ s'.fsm = s.fsm ∧ s'.hcnt = s.hcnt ∧ frameFields s' = frameFields s := by
  obtain ⟨t, ht⟩ := candidate_goes s
  obtain ⟨v, -, hv⟩ := dispatchTelegram_reports t.data
  rw [completeFrame_of_candidate ht]
  split
  · exact ⟨_, rfl, rfl, rfl, rfl⟩
  · exact ⟨_, hv t _ rfl, by simp, by simp, by simp [frameFields]⟩

/-! ### No byte is refused, state by state -/

theorem feed_goes_seeking {s : State} (hi : Inv s) (hf : s.fsm = .seekingSync) (b : Byte) :
    ∃ s', execFeed b s = .next s' ∧ Inv s' := by
  by_cases hb : b = 0x55
  · subst hb
    exact ⟨_, execFeed_sync hf, hi.outsideFrame rfl (.inl ⟨rfl, Nat.zero_le _⟩)⟩
  · exact ⟨_, execFeed_stray hf hb, hi.outsideFrame rfl (.inr ⟨hf, hi.headerCountZero (by simp [hf])⟩)⟩

/-- One of the first four header bytes. -/
theorem feed_goes_header {s : State} (hi : Inv s) (hf : s.fsm = .readingHeader) (hc : s.hcnt.toNat ≤ 3) (b : Byte) :
    ∃ s', execFeed b s = .next s' ∧ Inv s' := by
  obtain ⟨hb, -, hfeed⟩ := execFeed_header (b := b) hf hc
  have hcnt : (s.hcnt + 1).toNat ≤ 4 := by bv_omega
  exact ⟨_, hfeed, hi.outsideFrame rfl (.inl ⟨hf, hcnt⟩)⟩

/-- The fifth header byte: a match starts a frame, a mismatch is replayed and ends outside one. -/
theorem feed_goes_fifth {s : State} (hi : Inv s) (hf : s.fsm = .readingHeader) (hc : s.hcnt.toNat = 4) (b : Byte) :
    ∃ s', execFeed b s = .next s' ∧ Inv s' := by
  by_cases hm : headerCalc s.hbuf = b
  · exact ⟨_, execFeed_match hf hc hm, latchHeader_inv hi.memory hm⟩
  · obtain ⟨fsm, hcnt, hb, n, hreplay, hle, hend⟩ := replay_frame s.hbuf.b0 s.hbuf.b1 s.hbuf.b2 s.hbuf.b3 b
      (rejectHeader { s with hbuf := { s.hbuf with b4 := b }, hcnt := s.hcnt + 1, fsm := .validatingHeader }) rfl rfl
    exact ⟨_, (execFeed_fifth hf hc).trans ((validateHeader_mismatch hm).trans hreplay),
      hi.outsideFrame rfl (hend.imp_left fun h => ⟨h, hle⟩)⟩

theorem feed_goes_data {s : State} (hi : Inv s) (hf : s.fsm = .readingData) (b : Byte) :
    ∃ s', execFeed b s = .next s' ∧ Inv s' := by
  have hlt := (hi.frame hf).1
  rw [execFeed_data hf]
  obtain hmore | hlast : s.dcnt.toNat + 1 < s.total.toNat ∨ s.dcnt.toNat + 1 = s.total.toNat := by omega
  · exact ⟨_, consumeData_more (hi.dcnt_lt hf) hmore, hi.bufferByte hf hmore b⟩
  · have hend := hi.lastByte hf b
    obtain ⟨s', hdone, hfsm, hcnt, hfr⟩ := completeFrame_goes
      { s with fbuf := memSet s.fbuf s.dcnt.toNat b, dcnt := s.total, fsm := .seekingSync }
    refine ⟨s', (consumeData_last (hi.dcnt_lt hf) hlast).trans hdone, hend.outsideFrame hfr (.inr ⟨hfsm, ?_⟩)⟩
    exact hcnt.trans (hi.headerCountZero (by simp [hf]))

/-- FEED goes on from every state between steps, to a state between steps (41_frame_assembler.md R145). -/
theorem execFeed_goes {s : State} (hi : Inv s) (b : Byte) : ∃ s', execFeed b s = .next s' ∧ Inv s' := by
  cases hf : s.fsm with
  | seekingSync => exact feed_goes_seeking hi hf b
  | readingHeader =>
    obtain hc | hc : s.hcnt.toNat ≤ 3 ∨ s.hcnt.toNat = 4 := by have := hi.headerCount; omega
    · exact feed_goes_header hi hf hc b
    · exact feed_goes_fifth hi hf hc b
  | validatingHeader => exact absurd hf hi.fsmVisible
  | readingData => exact feed_goes_data hi hf b

/-- Settles O32, by the synchronizer's state: each of the visible ones takes every byte and keeps the invariant. -/
theorem feedNeverRefusesByte : Obligations.FeedNeverRefusesByte := fun _ b hi => execFeed_goes hi b

end Sys2Proof.Machine

/-! The last byte of a frame (42_validator.md R160 to R162): where it is stored, the candidate record it completes, and its rejection by the data CRC. -/
namespace Sys2Proof.Machine

/-- The data CRC byte lies behind the two portions, inside FBUF (10_state.md R28). -/
theorem lastByte_index {s : State} (htotal : s.total.toNat = s.dl.toNat + s.ol.toNat + 1)
    (hlast : s.dcnt.toNat + 1 = s.total.toNat) :
    s.dcnt.toNat = s.dl.toNat + s.ol.toNat ∧ s.dcnt.toNat < Config.fbufBytes := by
  have hdl := s.dl.isLt
  have hol := s.ol.isLt
  unfold Config.fbufBytes
  omega

/-- FEED of a frame's last byte compares the running CRC with that byte, on the record of what FBUF held and the byte itself. -/
theorem execFeed_lastByte {s : State} {b : Byte} {data opt : List Byte} (hfsm : s.fsm = .readingData)
    (htotal : s.total.toNat = s.dl.toNat + s.ol.toNat + 1) (hlast : s.dcnt.toNat + 1 = s.total.toNat)
    (hdata : loadBytes s.freeCount s.fbuf 0 s.dl.toNat = .ok data)
    (hopt : loadBytes s.freeCount s.fbuf s.dl.toNat s.ol.toNat = .ok opt) :
    let t : Telegram := { pt := s.pt, hcrc := s.hcrc, data := data, opt := opt, dcrc := b }
    let ended : State := { s with fbuf := memSet s.fbuf s.dcnt.toNat b, dcnt := s.total, fsm := .seekingSync }
    execFeed b s =
      if s.dacc ≠ b then .next (raise .dataCrcError (some (.dataCrcErr t s.dacc)) ended)
      else dispatchTelegram t (inc .valid ended) := by
  obtain ⟨hindex, hbound⟩ := lastByte_index htotal hlast
  have hcandidate := candidate_of_loads (s := { s with dcnt := s.total, fsm := .seekingSync }) (b := b) hbound hindex hdata hopt
  rw [execFeed_data hfsm, consumeData_last hbound hlast, completeFrame_of_candidate hcandidate]

/-- Settles O29: the mismatch branch of `execFeed_lastByte`, with what DataCrcError counts and reports written out. -/
theorem frameEndDataCrcMismatch : Obligations.FrameEndDataCrcMismatch := by
  intro s b data opt hfsm htotal hlast hdata hopt hne
  rw [exec_feed_eq, execFeed_lastByte hfsm htotal hlast hdata hopt, if_pos hne, raise_dataCrcError]

end Sys2Proof.Machine

/-! The humidity and illumination maps (44_unpack_profiles.md R226, R227): both are n·k/m, for a raw value n of at most m. -/
namespace Sys2Proof.Machine

/-- The linear map that takes a full-scale raw value `m` to `k` stays between 0 and `k`. -/
theorem linearMap_mem_range {n m k : Rat} (hn : 0 ≤ n) (hnm : n ≤ m) (hk : 0 ≤ k) : 0 ≤ n * k / m ∧ n * k / m ≤ k := by
  have hm : 0 ≤ m := hn.trans hnm
  refine ⟨div_nonneg (mul_nonneg hn hk) hm, div_le_of_le_mul₀ hm hk ?_⟩
  calc n * k ≤ m * k := mul_le_mul_of_nonneg_right hnm hk
    _ = k * m := mul_comm m k

/-- The humidity map stays within 0 to 100 % (44_unpack_profiles.md R226). -/
theorem hum_mem_range (r : BitVec 6) : 0 ≤ hum r ∧ hum r ≤ 100 := by
  have hr : r.toNat ≤ 63 := Nat.le_of_lt_succ r.isLt
  exact linearMap_mem_range r.toNat.cast_nonneg (by exact_mod_cast hr) (by norm_num)

/-- The illumination map stays within 0 to 100000 lx (44_unpack_profiles.md R227). -/
theorem illum_mem_range (r : BitVec 16) : 0 ≤ illum r ∧ illum r ≤ 100000 := by
  have hr : r.toNat ≤ 65535 := Nat.le_of_lt_succ r.isLt
  exact linearMap_mem_range r.toNat.cast_nonneg (by exact_mod_cast hr) (by norm_num)

/-- Settles O54: the formulas are the definitions, the ranges are those of `linearMap_mem_range`, and each end point is the formula at one raw value. -/
theorem humidityAndIlluminationMaps : Obligations.HumidityAndIlluminationMaps := by
  refine ⟨fun r => ⟨rfl, hum_mem_range r⟩, fun r => ⟨rfl, illum_mem_range r⟩, ?_, ?_, ?_⟩
  · simp [hum]
  · simp [hum]
  · simp [illum]

end Sys2Proof.Machine

/-! Dispatch (43_unpack_dispatch.md R180 to R191): what each row makes of a data portion, said once, and from it that dispatch ends every telegram in the outcome of its data portion. -/
namespace Sys2Proof.Machine

/-! ### What a row's meaning ends in -/

/-- The UnknownProfileError record of a data portion (43_unpack_dispatch.md R186). -/
def unknownVerdict (d : List Byte) : Verdict :=
  .unknown (byteAt d 0) (if byteAt d 0 = 0xD2 then some (byteAt d 1) else none)
    (if byteAt d 0 = 0xD2 then some (byteAt d 2) else none) d

/-- The outcome of a data portion under a row's meaning, its length rule included (43_unpack_dispatch.md R185); `exec_row` ties it to the row's instruction. -/
def rowVerdict : Row → List Byte → Verdict
  | .rps, d => profileVerdict .rps (rowLengthOk .rps d.length) d (unpackRps d)
  | .oneBs, d => profileVerdict .oneBs (rowLengthOk .oneBs d.length) d (unpackOneBs d)
  | .fourBs, d => profileVerdict .fourBs (rowLengthOk .fourBs d.length) d (unpackFourBs d)
  | .teachIn, d => profileVerdict .teachIn (rowLengthOk .teachIn d.length) d (unpackTeachIn d)
  | .vld1441, d => profileVerdict .vld1441 (rowLengthOk .vld1441 d.length) d (unpackVld1441 d)
  | .vld1440, d => profileVerdict .vld1440 (rowLengthOk .vld1440 d.length) d (unpackVld1440 d)
  | .vld0112, d => profileVerdict .vld0112 (rowLengthOk .vld0112 d.length) d (unpackVld0112 d)
  | .vld0101, d => profileVerdict .vld0101 (rowLengthOk .vld0101 d.length) d (unpackVld0101 d)
  | .vld0500, d => profileVerdict .vld0500 (rowLengthOk .vld0500 d.length) d (unpackVld0500 d)
  | .unknownD2, d => if rowLengthOk .unknownD2 d.length then unknownVerdict d else .lenMismatch
  | .unknownRorg, d => if rowLengthOk .unknownRorg d.length then unknownVerdict d else .lenMismatch

theorem finishProfile_underLengthRule (r : Row) (p : Profile) (t : Telegram) (f : Option Fields) (s : State) :
    underLengthRule r t s (finishProfile p t f s) =
      .next ((profileVerdict p (rowLengthOk r t.data.length) t.data f).report t s) := by
  cases f with
  | some f => rw [finishProfile_some, underLengthRule_eq]; rfl
  | none => exact underLengthRule_eq r t s (.decodeErr p)

theorem unknownProfile_underLengthRule (r : Row) (t : Telegram) (s : State) :
    underLengthRule r t s (unknownProfile t s) =
      .next ((if rowLengthOk r t.data.length then unknownVerdict t.data else .lenMismatch).report t s) := by
  rw [unknownProfile_eq, underLengthRule_eq]; rfl

/-- A row's instruction reports the row's outcome of the data portion, and does nothing else. -/
theorem exec_row (r : Row) (t : Telegram) (s : State) :
    exec (r.instr t) s = .next ((rowVerdict r t.data).report t s) := by
  cases r with
  | unknownD2 => exact unknownProfile_underLengthRule .unknownD2 t s
  | unknownRorg => exact unknownProfile_underLengthRule .unknownRorg t s
  | _ => exact finishProfile_underLengthRule _ _ t _ s

/-- A data portion of a length that the row refuses is a length mismatch (43_unpack_dispatch.md R185). -/
theorem rowVerdict_of_length {r : Row} {d : List Byte} (h : rowLengthOk r d.length = false) :
    rowVerdict r d = .lenMismatch := by
  cases r <;> simp only [rowVerdict, profileVerdict, h, Bool.false_eq_true, if_false]

theorem exec_row_rejects {r : Row} {t : Telegram} (h : rowLengthOk r t.data.length = false) (s : State) :
    exec (r.instr t) s = .next (Verdict.lenMismatch.report t s) := by
  rw [exec_row, rowVerdict_of_length h]

/-- Settles O43: each row's rule, read off `rowLengthOk`, and `exec_row_rejects`. -/
theorem rowLengthRuleRejects : Obligations.RowLengthRuleRejects := by
  intro t s rejected
  have ne {n : Nat} (h : t.data.length ≠ n) : (t.data.length == n) = false := beq_false_of_ne h
  have lt {n : Nat} (h : t.data.length < n) : decide (n ≤ t.data.length) = false := decide_eq_false (Nat.not_le.2 h)
  exact ⟨fun h => exec_row_rejects (r := .rps) (ne h) s,
    fun h => exec_row_rejects (r := .oneBs) (ne h) s,
    fun h => exec_row_rejects (r := .fourBs) (ne h) s,
    fun h => exec_row_rejects (r := .teachIn) (lt h) s,
    fun h => exec_row_rejects (r := .vld1441) (ne h) s,
    fun h => exec_row_rejects (r := .vld1440) (ne h) s,
    fun h => exec_row_rejects (r := .vld0112) (lt h) s,
    fun h => exec_row_rejects (r := .vld0101) (lt h) s,
    fun h => exec_row_rejects (r := .vld0500) (lt h) s,
    fun h => exec_row_rejects (r := .unknownD2) (lt h) s,
    fun h => exec_row_rejects (r := .unknownRorg) (lt h) s⟩

/-- Settles O44: under their length rules both unknown rows end in `unknownVerdict`, whose record looks at the RORG only. -/
theorem unknownRowsReportRecord : Obligations.UnknownRowsReportRecord := by
  constructor
  · intro t s func type d hlen hdata
    have hok : rowLengthOk .unknownD2 t.data.length = true := by simpa [hdata, rowLengthOk] using hlen
    have hv : rowVerdict .unknownD2 t.data = unknownVerdict t.data := if_pos hok
    exact (exec_row .unknownD2 t s).trans (by rw [hv, hdata]; rfl)
  · intro t s rorg d hrorg hdata
    have hok : rowLengthOk .unknownRorg t.data.length = true := by simp [hdata, rowLengthOk]
    have hv : rowVerdict .unknownRorg t.data = .unknown rorg none none (rorg :: d) :=
      (if_pos hok).trans (by
        have h0 : byteAt t.data 0 = rorg := by rw [hdata]; rfl
        rw [unknownVerdict, h0, if_neg hrorg, if_neg hrorg, hdata])
    exact (exec_row .unknownRorg t s).trans (by rw [hv]; rfl)

/-! ### Dispatch -/

theorem dispatchTelegram_ok {t : Telegram} {r : Row} (h : selectRow t.data = .ok r) (s : State) :
    dispatchTelegram t s = exec (r.instr t) s := by
  rw [dispatchTelegram, h]; cases r <;> rfl

theorem dispatchTelegram_error {t : Telegram} {e : NoRow} (h : selectRow t.data = .error e) (s : State) :
    dispatchTelegram t s = .next (Verdict.lenMismatch.report t s) := by
  rw [dispatchTelegram, h]; rfl

theorem decodeTelegram_eq_ok {t : Telegram} {i : Instr} :
    decodeTelegram t = .ok i ↔ ∃ r, selectRow t.data = .ok r ∧ r.instr t = i := by
  rw [decodeTelegram]
  cases selectRow t.data with
  | ok r => simp
  | error e => cases e <;> simp

theorem selectRow_of_decodeTelegram_error {t : Telegram} {e : DecodeError} (h : decodeTelegram t = .error e) :
    ∃ n, selectRow t.data = .error n := by
  rw [decodeTelegram] at h
  cases hr : selectRow t.data with
  | ok r => rw [hr] at h; cases h
  | error n => exact ⟨n, rfl⟩

/-- Settles O41, by whether the dispatch map selects a row. -/
theorem dispatchRunsDecodedRow : Obligations.DispatchRunsDecodedRow := by
  refine fun t s => ⟨fun i h => ?_, fun e h => ?_⟩
  · obtain ⟨r, hr, rfl⟩ := decodeTelegram_eq_ok.1 h
    exact dispatchTelegram_ok hr s
  · obtain ⟨n, hn⟩ := selectRow_of_decodeTelegram_error h
    exact dispatchTelegram_error hn s

/-- The outcome of a row selection: the row's, or a length mismatch (43_unpack_dispatch.md R181, R183). -/
def selectionVerdict (d : List Byte) : Except NoRow Row → Verdict
  | .ok r => rowVerdict r d
  | .error _ => .lenMismatch

theorem dispatchTelegram_selection (t : Telegram) (s : State) :
    dispatchTelegram t s = .next ((selectionVerdict t.data (selectRow t.data)).report t s) := by
  cases h : selectRow t.data with
  | ok r => rw [dispatchTelegram_ok h, exec_row]; rfl
  | error e => exact dispatchTelegram_error h s

/-- The selection by RORG, FUNC and TYPE: the same chain of conditions in `selectRow_eq` and in `verdict`. -/
theorem selectionVerdict_selectRow (d : List Byte) : selectionVerdict d (selectRow d) = verdict d := by
  rw [selectRow_eq]
  simp only [apply_ite (selectionVerdict d)]
  refine ite_congr rfl (fun _ => rfl) fun h0 => ?_
  iterate 4
    refine ite_congr rfl (fun _ => rfl) fun _ => ?_
  refine ite_congr rfl (fun hD2 => ite_congr rfl (fun _ => rfl) fun h9 => ?_) fun hD2 => ?_
  · iterate 5
      refine ite_congr rfl (fun _ => rfl) fun _ => ?_
    have hok : rowLengthOk .unknownD2 d.length = true := decide_eq_true (by omega)
    exact (if_pos hok).trans (by rw [unknownVerdict, hD2]; rfl)
  · have hok : rowLengthOk .unknownRorg d.length = true := decide_eq_true (by omega)
    exact (if_pos hok).trans (by rw [unknownVerdict, if_neg hD2, if_neg hD2])

theorem dispatchTelegram_eq (t : Telegram) (s : State) : dispatchTelegram t s = .next ((verdict t.data).report t s) := by
  rw [dispatchTelegram_selection, selectionVerdict_selectRow]

/-- Settles O40: `verdict` is the outcome of the row that the dispatch map selects. -/
theorem dispatchReportsVerdict : Obligations.DispatchReportsVerdict := dispatchTelegram_eq

/-- The outcome counter of a verdict (43_unpack_dispatch.md R190). -/
def Verdict.counter : Verdict → Counter
  | .decoded _ => .decoded
  | .lenMismatch => .lenMismatch
  | .unknown _ _ _ _ => .unknown
  | .decodeErr _ => .decodeErr

/-- Settles O42: a report counts its verdict's outcome counter and none of the other three. -/
theorem dispatchEndsInOneOutcome : Obligations.DispatchEndsInOneOutcome := by
  intro t s
  refine ⟨_, (verdict t.data).event t, (verdict t.data).counter, dispatchTelegram_eq t s, report_out _ _ _, ?_⟩
  cases verdict t.data <;> simp [Verdict.counter, Verdict.report, Machine.counter]

/-- Settles O19: `selectRow_eq`, at the RORG bytes and lengths of each clause. -/
theorem dispatchMapSelectsRow : Obligations.DispatchMapSelectsRow := by
  refine ⟨rfl, fun d h => ?shortD2, fun d => ⟨?rps, ?oneBs, ?fourBs, ?teachIn⟩, fun func type d h => ?d2,
    fun rorg d h1 h2 h3 h4 h5 => ?unknown⟩
  case shortD2 => exact (if_neg (Nat.succ_ne_zero _)).trans (if_pos ⟨rfl, Nat.succ_lt_succ h⟩)
  case rps => rw [selectRow_eq]; rfl
  case oneBs => rw [selectRow_eq]; rfl
  case fourBs => rw [selectRow_eq]; rfl
  case teachIn => rw [selectRow_eq]; rfl
  case d2 =>
    rw [selectRow_cons, if_neg (by omega), firstRow_key]
    rfl
  case unknown =>
    have h0 : byteAt (rorg :: d) 0 = rorg := rfl
    have hlen : (rorg :: d).length ≠ 0 := Nat.succ_ne_zero _
    rw [selectRow_eq, h0, if_neg hlen, if_neg h1, if_neg h2, if_neg h3, if_neg h4, if_neg h5]

end Sys2Proof.Machine

/-! Decode against encode (30_encoding.md sections 1 to 6): port words by their layout, frames by their header, and dispatch keys placed as frames. -/
namespace Sys2Proof
open Machine

/-! ### Port words -/

theorem decodePort_encode_reset (x : BitVec 9) : decodePort (1#1 ++ x) = .reset x := by
  have hrst : (1#1 ++ x).getLsbD 9 = true := BitVec.getLsbD_append
  rw [decodePort, if_pos hrst, BitVec.extractLsb'_append_eq_right]

theorem decodePort_portWord (valid : BitVec 1) (b : Byte) :
    decodePort (portWord 0 valid b) = if valid.getLsbD 0 then .feed b else .idle b := by
  have hrst : (portWord 0 valid b).getLsbD 9 = false := by simp only [portWord, BitVec.getLsbD_append]; rfl
  have hvalid : (portWord 0 valid b).getLsbD 8 = valid.getLsbD 0 := by simp only [portWord, BitVec.getLsbD_append]; rfl
  have hbyte : (portWord 0 valid b).extractLsb' 0 8 = b := BitVec.extractLsb'_append_eq_right
  rw [decodePort, hrst, hvalid, hbyte]
  rfl

/-! ### Frames -/

/-- A telegram's frame and the bytes after it, byte by byte as 30_encoding.md R73 places them. -/
theorem encodeFrame_append (t : Telegram) (rest : List Byte) :
    encodeFrame t ++ rest = Config.sync :: t.dl.extractLsb' 8 8 :: t.dl.extractLsb' 0 8 :: t.ol :: t.pt :: t.hcrc ::
      (t.data ++ (t.opt ++ t.dcrc :: rest)) := by
  simp [encodeFrame, Telegram.header]

theorem encodeFrame_length {t : Telegram} (h : t.lengthsFit = true) :
    (encodeFrame t).length = 7 + t.dl.toNat + t.ol.toNat := by
  rw [dl_toNat h, ol_toNat h]
  simp only [encodeFrame, Telegram.header, List.length_append, List.length_cons, List.length_nil]
  omega

/-- The decoder takes the two portions and the data CRC byte by the lengths in the header. -/
theorem decodeFrameTelegram_frame {h0 h1 h2 h3 hc dcrc : Byte} {data opt rest : List Byte}
    (hdata : data.length = (h0 ++ h1).toNat) (hopt : opt.length = h2.toNat)
    (hhdr : crc8 [h0, h1, h2, h3] = hc) (hcrc : crc8 (data ++ opt) = dcrc) :
    decodeFrameTelegram (Config.sync :: h0 :: h1 :: h2 :: h3 :: hc :: (data ++ (opt ++ dcrc :: rest))) =
      .ok ({ pt := h3, hcrc := hc, data := data, opt := opt, dcrc := dcrc }, rest) := by
  have hend : (data ++ (opt ++ dcrc :: rest)).drop (data.length + opt.length) = dcrc :: rest := by
    rw [← List.drop_drop, List.drop_left, List.drop_left]
  simp only [decodeFrameTelegram, ne_eq, not_true_eq_false, if_false, hhdr, ← hdata, ← hopt, hend, List.take_left,
    List.drop_left, hcrc]

/-- Whatever follows the frame of a telegram that passes its checks, the decoder gives the telegram and leaves the rest. -/
theorem decodeFrameTelegram_encodeFrame {t : Telegram} (hfit : t.lengthsFit = true) (hhdr : t.headerCrcOk = true)
    (hcrc : t.dataCrcOk = true) (rest : List Byte) : decodeFrameTelegram (encodeFrame t ++ rest) = .ok (t, rest) := by
  rw [encodeFrame_append]
  refine decodeFrameTelegram_frame ?_ (ol_toNat hfit).symm (beq_iff_eq.1 hhdr).symm (beq_iff_eq.1 hcrc).symm
  rw [append_extract, dl_toNat hfit]

/-- Settles O17: the frame decoder by `decodeFrameTelegram_encodeFrame`, the frame's length by its two length fields. -/
theorem frameEndFoundFromHeader : Obligations.FrameEndFoundFromHeader := by
  intro t rest hfit hhdr hcrc
  have hdl := t.dl.isLt
  have hol := t.ol.isLt
  have hlen := encodeFrame_length hfit
  exact ⟨decodeFrameTelegram_encodeFrame hfit hhdr hcrc rest, hlen, by omega, by omega⟩

theorem dl_eq {t : Telegram} {x : BitVec 16} (h : t.data.length = x.toNat) : t.dl = x := by
  rw [Telegram.dl, h, BitVec.ofNat_toNat, BitVec.setWidth_eq]

theorem ol_eq {t : Telegram} {x : Byte} (h : t.opt.length = x.toNat) : t.ol = x := by
  rw [Telegram.ol, h, BitVec.ofNat_toNat, BitVec.setWidth_eq]

theorem lengthsFit_of_toNat {t : Telegram} {dl : BitVec 16} {ol : Byte} (hdata : t.data.length = dl.toNat)
    (hopt : t.opt.length = ol.toNat) : t.lengthsFit = true := by
  rw [Telegram.lengthsFit, hdata, hopt]
  exact Bool.and_eq_true_iff.2 ⟨decide_eq_true dl.isLt, decide_eq_true ol.isLt⟩

/-- A header that passes its CRC, before enough bytes, starts the frame of the telegram that the two lengths cut out of these bytes. -/
theorem encodeFrame_of_body {h0 h1 h2 h3 hc dcrc : Byte} {body rest : List Byte} (hhdr : crc8 [h0, h1, h2, h3] = hc)
    (hend : body.drop ((h0 ++ h1).toNat + h2.toNat) = dcrc :: rest) :
    let data := body.take (h0 ++ h1).toNat
    let opt := (body.drop (h0 ++ h1).toNat).take h2.toNat
    let t : Telegram := { pt := h3, hcrc := hc, data := data, opt := opt, dcrc := dcrc }
    encodeFrame t ++ rest = Config.sync :: h0 :: h1 :: h2 :: h3 :: hc :: body ∧
      t.lengthsFit = true ∧ t.headerCrcOk = true := by
  intro data opt t
  have hlong : (h0 ++ h1).toNat + h2.toNat < body.length := by
    by_contra hle
    rw [List.drop_of_length_le (by omega)] at hend
    cases hend
  have hdata : t.data.length = (h0 ++ h1).toNat := by simp only [t, data, List.length_take]; omega
  have hopt : t.opt.length = h2.toNat := by simp only [t, opt, List.length_take, List.length_drop]; omega
  have hbody : t.data ++ (t.opt ++ t.dcrc :: rest) = body := by
    rw [← hend, ← List.drop_drop, List.take_append_drop, List.take_append_drop]
  have hheader : t.header = [h0, h1, h2, h3] := by
    rw [Telegram.header, dl_eq hdata, ol_eq hopt, extract_append_high, extract_append_low]
  refine ⟨?_, lengthsFit_of_toNat hdata hopt, beq_iff_eq.2 (by rw [hheader, hhdr])⟩
  rw [encodeFrame_append, dl_eq hdata, ol_eq hopt, extract_append_high, extract_append_low, hbody]

/-- Settles O18: what the decoder accepts is a sync byte, a header with its CRC, and a body as `encodeFrame_of_body` wants it. -/
theorem decodedFrameReencodes : Obligations.DecodedFrameReencodes := by
  intro bs rest t h
  unfold decodeFrameTelegram at h
  split at h
  · split at h
    · cases h
    · next hsync =>
      split at h
      · cases h
      · next hhdr =>
        simp only at h
        split at h
        · next hend =>
          split at h
          · cases h
          · next hcrc =>
            cases h
            obtain ⟨hbytes, hfit, hok⟩ := encodeFrame_of_body (not_not.1 hhdr) hend
            rw [not_not.1 hsync]
            exact ⟨hbytes, hfit, hok, beq_iff_eq.2 (not_not.1 hcrc).symm⟩
        · cases h
  · split at h <;> cases h
  · cases h

/-! ### Dispatch rows -/

theorem wellFormed_iff {t : Telegram} {r : Row} :
    t.wellFormed r = true ↔ t.lengthsFit = true ∧ t.headerCrcOk = true ∧ t.dataCrcOk = true ∧ t.selects r = true := by
  simp only [Telegram.wellFormed, Bool.and_eq_true, and_assoc]

theorem selects_iff {t : Telegram} {r : Row} : t.selects r = true ↔ selectRow t.data = .ok r := by
  rw [Telegram.selects]
  cases selectRow t.data with
  | ok r' => simp
  | error e => simp

theorem Row.instr_wellFormed (r : Row) (t : Telegram) : (r.instr t).wellFormed = t.wellFormed r := by cases r <;> rfl

theorem Row.encode_instr (r : Row) (t : Telegram) : encode (r.instr t) = .frame (encodeFrame t) := by cases r <;> rfl

/-- The frame of a telegram that is well formed for a row decodes to that row's instruction. -/
theorem decode_encodeFrame {r : Row} {t : Telegram} (h : t.wellFormed r = true) :
    decode (.frame (encodeFrame t)) = .ok (r.instr t) := by
  obtain ⟨hfit, hhdr, hcrc, hsel⟩ := wellFormed_iff.1 h
  have hframe := decodeFrameTelegram_encodeFrame hfit hhdr hcrc []
  rw [List.append_nil] at hframe
  have hrow : decodeTelegram t = .ok (r.instr t) := decodeTelegram_eq_ok.2 ⟨r, selects_iff.1 hsel, rfl⟩
  simp only [decode, decodeFrame, hframe, hrow]

theorem decode_encode_row (r : Row) (t : Telegram) (h : (r.instr t).wellFormed = true) :
    decode (encode (r.instr t)) = .ok (r.instr t) := by
  rw [Row.encode_instr]
  exact decode_encodeFrame ((Row.instr_wellFormed r t).symm.trans h)

/-- Settles O16: port words by their layout, addresses by being the whole request, and the eleven rows by `decode_encode_row`. -/
theorem decodeEncodeRoundTrip : Obligations.DecodeEncodeRoundTrip := by
  intro i h
  cases i with
  | reset x => exact congrArg Except.ok (decodePort_encode_reset x)
  | feed b => exact congrArg Except.ok (decodePort_portWord 1 b)
  | idle x => exact congrArg Except.ok (decodePort_portWord 0 x)
  | regread a => rfl
  | rpsF6 t => exact decode_encode_row .rps t h
  | oneBsD50001 t => exact decode_encode_row .oneBs t h
  | fourBsA5 t => exact decode_encode_row .fourBs t h
  | teachInD4 t => exact decode_encode_row .teachIn t h
  | vldD21441 t => exact decode_encode_row .vld1441 t h
  | vldD21440 t => exact decode_encode_row .vld1440 t h
  | vldD20112 t => exact decode_encode_row .vld0112 t h
  | vldD20101 t => exact decode_encode_row .vld0101 t h
  | vldD20500 t => exact decode_encode_row .vld0500 t h
  | unknownD2 t => exact decode_encode_row .unknownD2 t h
  | unknownRorg t => exact decode_encode_row .unknownRorg t h

/-- Settles O14: each written word evaluated by the decoder. -/
theorem writtenWordsDecode : Obligations.WrittenWordsDecode := by
  refine ⟨rfl, rfl, rfl, rfl, rfl, rfl, rfl, ?_⟩
  decide +kernel

end Sys2Proof

/-! Power-on and RESET (10_state.md R39; 41_frame_assembler.md R150; 70_reset_and_hazards.md R293), and the frame buffer as an array of bytes (20_memory.md R50). -/
namespace Sys2Proof.Machine

theorem exec_reset_next {x : BitVec 9} {s s' : State} (h : exec (.reset x) s = .next s') :
    s' = { State.reset with
      hbuf := unspecifiedHeader s.freeCount, readData := s.readData, requests := s.requests, freeCount := s.freeCount + 1 } := by
  rw [exec_reset_eq, execReset] at h
  cases h
  rfl

/-- Settles O1: the fields of `State.reset`, the nine counters one by one. -/
theorem powerOnState : Obligations.PowerOnState :=
  ⟨rfl, rfl, rfl, rfl, rfl, rfl, rfl, rfl, rfl, fun c => by cases c <;> rfl, rfl, rfl⟩

/-- A state whose block, `hbuf` apart, is the one after power-on meets the invariant. -/
theorem inv_of_reset_fields {s : State} (hf : s.fsm = .seekingSync) (hc : s.hcnt = 0)
    (hfr : frameFields s = frameFields State.reset) : Inv s := by
  simp only [frameFields, Prod.mk.injEq] at hfr
  obtain ⟨hdl, hol, hpt, hhcrc, htotal, hdcnt, hfbuf⟩ := hfr
  exact {
    fsmVisible := by simp [hf]
    headerCount := by rw [hc]; exact Nat.zero_le _
    headerCountZero := fun _ => hc
    lengths := .inr ⟨htotal, hdl, hol⟩
    progress := by rw [hdcnt]; exact Nat.zero_le _
    latchedCrc := by rw [hhcrc, hdl, hol, hpt]; decide +kernel
    memory := by rw [hfbuf]; exact reset_memory_wf
    frame := fun h => by simp [hf] at h }

/-- Settles O2. -/
theorem resetMeetsInvariant : Obligations.ResetMeetsInvariant := inv_of_reset_fields rfl rfl rfl

/-- Settles O33: `execReset`, field by field. -/
theorem resetTransactionEffect : Obligations.ResetTransactionEffect := exec_reset_eq

theorem regRead_reset : ∀ a : Byte, regRead a State.reset = 0 := by decide +kernel

/-- Settles O59: both RESETs leave the reset values, and the two states differ in `hbuf` and `freeCount` only. -/
theorem secondResetChangesNothing : Obligations.SecondResetChangesNothing := by
  intro s s1 s2 x y h1 h2
  obtain rfl := exec_reset_next h1
  obtain rfl := exec_reset_next h2
  exact ⟨rfl, fun a => ⟨regRead_reset a, regRead_reset a⟩⟩

/-! ### The frame buffer -/

theorem loadByte_out_of_range {e i : Nat} {m : List Host.Cell} (h : Config.fbufBytes ≤ i) :
    loadByte e m i = .error (.fbufIndex i) := if_neg (Nat.not_lt.2 h)

/-- Settles O60: a read after a write, at its index and at the others, and the empty list that a RESET leaves. -/
theorem fbufIsByteArray : Obligations.FbufIsByteArray := by
  refine ⟨fun s i b hi => ⟨⟨_, if_pos hi⟩, _, if_pos hi, loadByte_memSet_same hi, fun j hj => loadByte_memSet_other hj⟩,
    fun s i b hi => ⟨if_neg (Nat.not_lt.2 hi), loadByte_out_of_range hi⟩, fun s s' x h i => ?_⟩
  obtain rfl := exec_reset_next h
  rfl

end Sys2Proof.Machine

/-! Numbers of single fields: the length total (10_state.md R25), STATUS (R35), the CRC table (40_crc8.md R102), and the linear maps of 44_unpack_profiles.md R219, R225 and R228. -/
namespace Sys2Proof.Machine

/-- Settles O5: `totalLength_toNat`, and the widths of the two lengths. -/
theorem totalLengthNeverWraps : Obligations.TotalLengthNeverWraps := by
  intro dl ol
  have hd := dl.isLt
  have ho := ol.isLt
  have h := totalLength_toNat dl ol
  omega

/-- STATUS outside READING_HEADER, where the header count is 0. -/
theorem Inv.statusWord_eq {s : State} (hi : Inv s) (hf : s.fsm ≠ .readingHeader) :
    statusWord s = BitVec.ofNat 32 (32 * (framePending s).toNat + (fsmCode s.fsm).toNat) := by
  have h := statusWord_toNat s
  rw [hi.headerCountZero hf] at h
  have hword : statusWord s = BitVec.ofNat 32 (statusWord s).toNat := by rw [BitVec.ofNat_toNat, BitVec.setWidth_eq]
  rw [hword, h]
  rfl

/-- Settles O6: `statusWord_toNat`, state by state. -/
theorem statusWordValues : Obligations.StatusWordValues := by
  constructor
  · intro s
    rw [statusWord_toNat, framePending_toNat]
    cases s.fsm <;> rfl
  · intro s hi
    cases hf : s.fsm with
    | seekingSync => exact .inl ⟨rfl, by rw [hi.statusWord_eq (by simp [hf]), framePending, hf]; rfl⟩
    | readingHeader =>
      refine .inr (.inl ⟨rfl, hi.headerCount, ?_⟩)
      rw [statusWord_toNat, framePending_toNat, hf]
      simp [fsmCode]
      omega
    | validatingHeader => exact absurd hf hi.fsmVisible
    | readingData => exact .inr (.inr ⟨rfl, by rw [hi.statusWord_eq (by simp [hf]), framePending, hf]; rfl⟩)

/-- The table holds the update of a zero register by each byte (40_crc8.md R102). -/
theorem crcTable_getElem? : ∀ x : Byte, crcTable[x.toNat]? = some (crc8Update 0 x) := by decide +kernel

/-- Settles O20: one look for each of the 256 exclusive-ors, by `crc8Update_xor`. -/
theorem crcTableIsUpdate : Obligations.CrcTableIsUpdate :=
  ⟨by decide +kernel, fun c b => by rw [crcTable_getElem?, ← crc8Update_xor]⟩

/-- Settles O48: `a5Value` at the selected raw bytes of each clause. -/
theorem fourBsScaleIsLinear : Obligations.FourBsScaleIsLinear := by
  refine fun sc f g => ⟨fun h => ?_, fun h => ?_, fun h => ?_⟩
  · rw [a5Value, h]; ring
  · rw [a5Value, h]; ring
  · rw [a5Value, a5Value, h]; push_cast; ring

/-- The temperature map is the range map of `linearMap_mem_range`, moved down by 40 (44_unpack_profiles.md R225). -/
theorem temp_mem_range (r : BitVec 10) : -40 ≤ temp r ∧ temp r ≤ 60 := by
  have hr : r.toNat ≤ 1023 := Nat.le_of_lt_succ r.isLt
  obtain ⟨h0, h1⟩ := linearMap_mem_range (n := (r.toNat : Rat)) (m := 1023) (k := 100) r.toNat.cast_nonneg
    (by exact_mod_cast hr) (by norm_num)
  unfold temp
  constructor <;> linarith

/-- The acceleration map over its common denominator (decision D24). -/
theorem acc_eq (r : Byte) : acc r = (2 * (r.toNat : Rat) - 255) / 102 := by
  rw [acc]; ring

/-- The acceleration map: ±5/2 g at the ends, and an odd numerator, so never 0. -/
theorem acc_mem_range (r : Byte) : -5 / 2 ≤ acc r ∧ acc r ≤ 5 / 2 ∧ acc r ≠ 0 := by
  have hr : (r.toNat : Rat) ≤ 255 := by exact_mod_cast Nat.le_of_lt_succ r.isLt
  have h0 : (0 : Rat) ≤ r.toNat := r.toNat.cast_nonneg
  rw [acc_eq]
  refine ⟨by linarith, by linarith, fun h => ?_⟩
  have hodd : (2 * r.toNat : Nat) = 255 := by exact_mod_cast (by linarith : (2 * (r.toNat : Rat)) = 255)
  omega

/-- Settles O55: the two ranges, and the maps at the raw values named. -/
theorem temperatureAndAccelerationMaps : Obligations.TemperatureAndAccelerationMaps := by
  have htemp (r : BitVec 10) (n : Nat) (h : r.toNat = n) : temp r = -40 + (n : Rat) * 100 / 1023 := by rw [temp, h]
  have hacc (r : Byte) (n : Nat) (h : r.toNat = n) : acc r = (2 * (n : Rat) - 255) / 102 := by rw [acc_eq, h]
  refine ⟨temp_mem_range, ?_, ?_, ?_, acc_mem_range, ?_, ?_, ?_, ?_⟩
  · rw [htemp 0 0 rfl]; norm_num
  · rw [htemp 1023 1023 rfl]; norm_num
  · rw [htemp 512 512 rfl]; norm_num
  · rw [hacc 0 0 rfl]; norm_num
  · rw [hacc 255 255 rfl]; norm_num
  · rw [hacc 127 127 rfl]; norm_num
  · rw [hacc 128 128 rfl]; norm_num

end Sys2Proof.Machine

/-! The profiles (44_unpack_profiles.md): the fields of a data portion as numbers, the reading record, and each row's DECODED as a whole-state equation. -/
namespace Sys2Proof.Machine

/-! ### Fields as numbers -/

theorem extractLsb'_eq_ofNat (a : Byte) (start n : Nat) : a.extractLsb' start n = BitVec.ofNat n (a.toNat / 2 ^ start) := by
  rw [← Nat.shiftRight_eq_div_pow]; rfl

/-- One bit of a byte: bit `start`. -/
theorem extractBit_eq_ofNat (a : Byte) (start : Nat) : a.extractLsb' start 1 = BitVec.ofNat 1 (a.toNat / 2 ^ start % 2) := by
  rw [extractLsb'_eq_ofNat]
  apply BitVec.eq_of_toNat_eq
  rw [BitVec.toNat_ofNat, BitVec.toNat_ofNat]
  omega

theorem lowBit_eq_ofNat (a : Byte) : a.extractLsb' 0 1 = BitVec.ofNat 1 (a.toNat % 2) := by
  rw [extractBit_eq_ofNat, Nat.pow_zero, Nat.div_one]

theorem ofNat_one_beq_one (n : Nat) : (BitVec.ofNat 1 (n % 2) == 1) = (n % 2 == 1) := by
  obtain h | h := Nat.mod_two_eq_zero_or_one n <;> rw [h] <;> rfl

theorem tempRaw_eq_ofNat (x0 x1 : Byte) : tempRaw x0 x1 = BitVec.ofNat 10 (x0.toNat * 4 + x1.toNat / 64) := by
  rw [← tempRaw_toNat, BitVec.ofNat_toNat, BitVec.setWidth_eq]

theorem humRaw_eq_ofNat (x1 : Byte) : humRaw x1 = BitVec.ofNat 6 (x1.toNat % 64) := by
  rw [← humRaw_toNat, BitVec.ofNat_toNat, BitVec.setWidth_eq]

theorem illumRaw_eq_ofNat (x2 x3 : Byte) : illumRaw x2 x3 = BitVec.ofNat 16 (x2.toNat * 256 + x3.toNat) :=
  append_eq_ofNat x2 x3

theorem temp_tempRaw (x0 x1 : Byte) :
    temp (tempRaw x0 x1) = -40 + ((x0.toNat * 4 + x1.toNat / 64 : Nat) : Rat) * 100 / 1023 := by
  rw [temp, tempRaw_toNat]

theorem hum_humRaw (x1 : Byte) : hum (humRaw x1) = ((x1.toNat % 64 : Nat) : Rat) * 100 / 63 := by
  rw [hum, humRaw_toNat]

theorem illum_illumRaw (x2 x3 : Byte) :
    illum (illumRaw x2 x3) = ((x2.toNat * 256 + x3.toNat : Nat) : Rat) * 100000 / 65535 := by
  rw [illum, illumRaw_toNat]

/-- The bytes between a head and a tail of known lengths. -/
theorem slice_middle (xs ys zs : List Byte) : slice (xs ++ ys ++ zs) xs.length ((xs ++ ys).length) = ys := by
  rw [slice, List.take_left, List.drop_left]

/-- The profile bytes between a head and the five bytes of sender ID and status (43_unpack_dispatch.md R187). -/
theorem slice_profileBytes (xs raw : List Byte) (i3 i2 i1 i0 st : Byte) :
    slice (xs ++ raw ++ [i3, i2, i1, i0, st]) xs.length ((xs ++ raw ++ [i3, i2, i1, i0, st]).length - 5) = raw := by
  rw [List.length_append (bs := [i3, i2, i1, i0, st])]
  exact slice_middle xs raw _

/-! ### The reading record -/

/-- The reading of a data portion that starts with the RORG and ends in sender ID and status (43_unpack_dispatch.md R187). -/
theorem reading_append (p : Profile) (rorg : Byte) (xs : List Byte) (i3 i2 i1 i0 st : Byte) (f : Fields) :
    reading p (rorg :: xs ++ [i3, i2, i1, i0, st]) f = {
      profile := p
      tag := profileTag p
      rorg := rorg
      senderId := BitVec.ofNat 32 (i3.toNat * 2 ^ 24 + i2.toNat * 2 ^ 16 + i1.toNat * 2 ^ 8 + i0.toNat)
      status := st
      fields := f } := by
  rw [reading, senderId_append, statusByte_append]
  rfl

/-- The row of the dispatch map whose instruction reads a profile (30_encoding.md R90). -/
def Profile.row : Profile → Row
  | .rps => .rps
  | .oneBs => .oneBs
  | .fourBs => .fourBs
  | .teachIn => .teachIn
  | .vld1441 => .vld1441
  | .vld1440 => .vld1440
  | .vld0112 => .vld0112
  | .vld0101 => .vld0101
  | .vld0500 => .vld0500

/-- `UNPACK[p]`; `rowVerdict_profile` ties it to the profile's row. -/
def unpack : Profile → List Byte → Option Fields
  | .rps => unpackRps
  | .oneBs => unpackOneBs
  | .fourBs => unpackFourBs
  | .teachIn => unpackTeachIn
  | .vld1441 => unpackVld1441
  | .vld1440 => unpackVld1440
  | .vld0112 => unpackVld0112
  | .vld0101 => unpackVld0101
  | .vld0500 => unpackVld0500

theorem rowVerdict_profile (p : Profile) (d : List Byte) :
    rowVerdict p.row d = profileVerdict p (rowLengthOk p.row d.length) d (unpack p d) := by cases p <;> rfl

/-- A data portion of a length that its profile admits, read to the fields `f`: its row counts and reports the reading, and does nothing else (43_unpack_dispatch.md R188). -/
theorem exec_profile (p : Profile) {t : Telegram} {rorg i3 i2 i1 i0 st : Byte} {xs : List Byte} {f : Fields}
    (hdata : t.data = rorg :: xs ++ [i3, i2, i1, i0, st]) (hlen : rowLengthOk p.row t.data.length = true)
    (hf : unpack p t.data = some f) (s : State) :
    exec (p.row.instr t) s = .next { s with
      cntDecoded := s.cntDecoded + 1
      out := s.out ++ [.decoded t {
        profile := p
        tag := profileTag p
        rorg := rorg
        senderId := BitVec.ofNat 32 (i3.toNat * 2 ^ 24 + i2.toNat * 2 ^ 16 + i1.toNat * 2 ^ 8 + i0.toNat)
        status := st
        fields := f }] } := by
  rw [← reading_append, ← hdata, exec_row, rowVerdict_profile, hlen, hf]
  rfl

/-! ### RPS, 1BS and 4BS -/

theorem rpsButton_eq_ofNat (a : Byte) : rpsButton a = BitVec.ofNat 2 (a.toNat / 64) := extractLsb'_eq_ofNat a 6 2

theorem rpsPressed_eq (a : Byte) : rpsPressed a = (a.toNat / 16 % 2 == 1) := Nat.testBit_eq_decide_div_mod_eq

theorem rpsLowNibble_eq_ofNat (a : Byte) : rpsLowNibble a = BitVec.ofNat 4 (a.toNat % 16) := by
  apply BitVec.eq_of_toNat_eq
  rw [rpsLowNibble, BitVec.extractLsb'_toNat, BitVec.toNat_ofNat, Nat.shiftRight_zero]
  omega

/-- A 2-bit button as a number (44_unpack_profiles.md R210). -/
theorem button_beq_ofNat {n k : Nat} (hn : n < 4) (hk : k < 4) : (BitVec.ofNat 2 n == BitVec.ofNat 2 k) = (n == k) := by
  interval_cases n <;> interval_cases k <;> rfl

theorem rpsButtonName_ofNat (n : Nat) : n < 4 → rpsButtonName (BitVec.ofNat 2 n) =
    match n with | 0 => "button_a" | 1 => "button_b" | 2 => "button_c" | _ => "button_d" := by
  intro hn
  interval_cases n <;> rfl

/-- The action byte's fields as numbers (44_unpack_profiles.md R210; decision D20). -/
theorem unpackRps_eq (rorg a : Byte) (more : List Byte) : unpackRps (rorg :: a :: more) = some (.rps {
    action := a
    button := BitVec.ofNat 2 (a.toNat / 64)
    buttonName := match a.toNat / 64 with | 0 => "button_a" | 1 => "button_b" | 2 => "button_c" | _ => "button_d"
    position := BitVec.ofNat 1 (a.toNat / 32 % 2)
    pressed := a.toNat / 16 % 2 == 1
    lowNibble := BitVec.ofNat 4 (a.toNat % 16)
    buttonAPressed := a.toNat / 16 % 2 == 1 && a.toNat / 64 == 0
    buttonBPressed := a.toNat / 16 % 2 == 1 && a.toNat / 64 == 1
    buttonCPressed := a.toNat / 16 % 2 == 1 && a.toNat / 64 == 2
    buttonDPressed := a.toNat / 16 % 2 == 1 && a.toNat / 64 == 3 }) := by
  have hn : a.toNat / 64 < 4 := by have := a.isLt; omega
  have is (k : Nat) (hk : k < 4) : (rpsButton a == BitVec.ofNat 2 k) = (a.toNat / 64 == k) := by
    rw [rpsButton_eq_ofNat, button_beq_ofNat hn hk]
  have hposition : rpsPosition a = BitVec.ofNat 1 (a.toNat / 32 % 2) := extractBit_eq_ofNat a 5
  rw [← rpsButtonName_ofNat _ hn, ← is 0 (by decide), ← is 1 (by decide), ← is 2 (by decide), ← is 3 (by decide),
    ← rpsButton_eq_ofNat, ← hposition, ← rpsPressed_eq, ← rpsLowNibble_eq_ofNat]
  rfl

theorem unpackOneBs_eq (rorg x : Byte) (more : List Byte) : unpackOneBs (rorg :: x :: more) =
    some (.oneBs { state := x, contact := BitVec.ofNat 1 (x.toNat % 2), closed := x.toNat % 2 == 1 }) := by
  rw [← ofNat_one_beq_one, ← lowBit_eq_ofNat]
  rfl

theorem unpackFourBs_eq (rorg d3 d2 d1 d0 : Byte) (more : List Byte) :
    unpackFourBs (rorg :: d3 :: d2 :: d1 :: d0 :: more) =
      some (.fourBs { db3 := d3, db2 := d2, db1 := d1, db0 := d0, lrn := BitVec.ofNat 1 (d0.toNat / 8 % 2) }) :=
  congrArg (fun lrn => some (Fields.fourBs { db3 := d3, db2 := d2, db1 := d1, db0 := d0, lrn := lrn }))
    (extractBit_eq_ofNat d0 3)

/-- Settles O45. -/
theorem rpsDecodes : Obligations.RpsDecodes := fun t s a i3 i2 i1 i0 st ht =>
  exec_profile .rps (xs := [a]) ht (by rw [ht]; rfl) (by rw [ht]; exact unpackRps_eq _ _ _) s

/-- Settles O46. -/
theorem oneBsDecodes : Obligations.OneBsDecodes := fun t s x i3 i2 i1 i0 st ht =>
  exec_profile .oneBs (xs := [x]) ht (by rw [ht]; rfl) (by rw [ht]; exact unpackOneBs_eq _ _ _) s

/-- Settles O47. -/
theorem fourBsDecodes : Obligations.FourBsDecodes := fun t s d3 d2 d1 d0 i3 i2 i1 i0 st ht =>
  exec_profile .fourBs (xs := [d3, d2, d1, d0]) ht (by rw [ht]; rfl) (by rw [ht]; exact unpackFourBs_eq _ _ _ _ _ _) s

/-! ### The D2 sensor profiles -/

/-- The sensor fields at their byte places, raw and exact (44_unpack_profiles.md R224 to R228; decisions D23, D24). -/
theorem unpackSensors_eq (r f y m x0 x1 x2 x3 x4 x5 x6 : Byte) (more : List Byte) :
    unpackSensors (r :: f :: y :: m :: x0 :: x1 :: x2 :: x3 :: x4 :: x5 :: x6 :: more) = {
      mfgId := m
      tempRaw := BitVec.ofNat 10 (x0.toNat * 4 + x1.toNat / 64)
      humRaw := BitVec.ofNat 6 (x1.toNat % 64)
      illumRaw := BitVec.ofNat 16 (x2.toNat * 256 + x3.toNat)
      accXRaw := x4
      accYRaw := x5
      accZRaw := x6
      temperatureC := -40 + ((x0.toNat * 4 + x1.toNat / 64 : Nat) : Rat) * 100 / 1023
      humidityPercent := ((x1.toNat % 64 : Nat) : Rat) * 100 / 63
      illuminationLx := ((x2.toNat * 256 + x3.toNat : Nat) : Rat) * 100000 / 65535
      accXG := (2 * (x4.toNat : Rat) - 255) / 102
      accYG := (2 * (x5.toNat : Rat) - 255) / 102
      accZG := (2 * (x6.toNat : Rat) - 255) / 102 } := by
  rw [← temp_tempRaw, ← hum_humRaw, ← illum_illumRaw, ← acc_eq, ← acc_eq, ← acc_eq,
    ← tempRaw_eq_ofNat, ← humRaw_eq_ofNat, ← illumRaw_eq_ofNat]
  rfl

/-- Settles O49: the sensor fields, and the magnet as bit 0 of the last profile byte. -/
theorem vld1441Decodes : Obligations.Vld1441Decodes := by
  intro t s m x0 x1 x2 x3 x4 x5 x6 x7 x8 i3 i2 i1 i0 st ht
  refine exec_profile .vld1441 (xs := [0x14, 0x41, m, x0, x1, x2, x3, x4, x5, x6, x7, x8]) ht (by rw [ht]; rfl) ?_ s
  rw [ht, ← unpackSensors_eq 0xD2 0x14 0x41, ← ofNat_one_beq_one, ← lowBit_eq_ofNat]
  rfl

/-- Settles O50: the sensor fields. -/
theorem vld1440Decodes : Obligations.Vld1440Decodes := by
  intro t s m x0 x1 x2 x3 x4 x5 x6 x7 x8 i3 i2 i1 i0 st ht
  refine exec_profile .vld1440 (xs := [0x14, 0x40, m, x0, x1, x2, x3, x4, x5, x6, x7, x8]) ht (by rw [ht]; rfl) ?_ s
  rw [ht, ← unpackSensors_eq 0xD2 0x14 0x40]
  rfl

/-- Settles O51: temperature and humidity are read from the front, sender ID and status from the back. -/
theorem vld0112Decodes : Obligations.Vld0112Decodes := by
  intro t s m x0 x1 i3 i2 i1 i0 st more ht
  have hlen : rowLengthOk .vld0112 t.data.length = true := decide_eq_true (by simp [ht])
  refine exec_profile .vld0112 (xs := [0x01, 0x12, m, x0, x1] ++ more) ht hlen ?_ s
  rw [ht, ← temp_tempRaw, ← hum_humRaw, ← tempRaw_eq_ofNat, ← humRaw_eq_ofNat]
  rfl

/-! ### Raw profiles -/

/-- Settles O52: the raw bytes stand between the manufacturer byte and the sender ID. -/
theorem vldRawProfilesDecode : Obligations.VldRawProfilesDecode := by
  refine fun t s m i3 i2 i1 i0 st raw => ⟨fun ht => ?_, fun ht => ?_⟩
  · have hlen : rowLengthOk .vld0101 t.data.length = true := decide_eq_true (by simp [ht])
    refine exec_profile .vld0101 (xs := [0x01, 0x01, m] ++ raw) ht hlen ?_ s
    rw [ht]
    exact congrArg (fun raw => some (Fields.vld0101 { mfgId := m, raw := raw }))
      (slice_profileBytes [0xD2, 0x01, 0x01, m] raw i3 i2 i1 i0 st)
  · have hlen : rowLengthOk .vld0500 t.data.length = true := decide_eq_true (by simp [ht])
    refine exec_profile .vld0500 (xs := [0x05, 0x00, m] ++ raw) ht hlen ?_ s
    rw [ht]
    exact congrArg (fun raw => some (Fields.vld0500 { mfgId := m, raw := raw }))
      (slice_profileBytes [0xD2, 0x05, 0x00, m] raw i3 i2 i1 i0 st)

/-- Settles O53: the announcement bytes stand between the RORG and the sender ID. -/
theorem teachInDecodes : Obligations.TeachInDecodes := by
  intro t s i3 i2 i1 i0 st raw ht
  have hlen : rowLengthOk .teachIn t.data.length = true := decide_eq_true (by simp [ht])
  refine exec_profile .teachIn (xs := raw) ht hlen ?_ s
  rw [ht]
  exact congrArg (fun raw => some (Fields.teachIn raw)) (slice_profileBytes [0xD4] raw i3 i2 i1 i0 st)

end Sys2Proof.Machine

/-! FEED's remaining equations, and what one FEED counts, reports and stores, said once for every byte it accepts (41_frame_assembler.md sections 1 and 2; 60_exceptions.md R260). -/
namespace Sys2Proof.Machine

/-- Settles O24: `execFeed_stray`. -/
theorem feedStrayByteIsCounted : Obligations.FeedStrayByteIsCounted :=
  fun s b h hb => (exec_feed_eq b s).trans (execFeed_stray h hb)

/-- The fifth header byte is not the header CRC: the header is rejected and its five bytes are replayed. -/
theorem execFeed_mismatch {b : Byte} {s : State} (hf : s.fsm = .readingHeader) (hc : s.hcnt.toNat = 4)
    (hm : headerCalc s.hbuf ≠ b) :
    execFeed b s = consumeList consumeReplayed [s.hbuf.b0, s.hbuf.b1, s.hbuf.b2, s.hbuf.b3, b] { s with
      hbuf := { s.hbuf with b4 := b }
      hcnt := 0
      fsm := .seekingSync
      cntHdrCrc := s.cntHdrCrc + 1
      cntError := s.cntError + 1
      out := s.out ++ [.hdrCrcErr s.hbuf.b0 s.hbuf.b1 s.hbuf.b2 s.hbuf.b3 b (headerCalc s.hbuf)] } :=
  (execFeed_fifth hf hc).trans (validateHeader_mismatch hm)

theorem findIdx_sync_cons (x : Byte) (xs : List Byte) :
    (x :: xs).findIdx (fun y => y == 0x55) = if x = 0x55 then 0 else xs.findIdx (fun y => y == 0x55) + 1 := by
  rw [List.findIdx_cons]
  by_cases h : x = 0x55
  · rw [if_pos h, beq_iff_eq.2 h]; rfl
  · rw [if_neg h, beq_false_of_ne h]; rfl

/-- Settles O27: `replay_eq`, by the place of the first 0x55 among the five bytes. -/
theorem feedHeaderMismatchReplays : Obligations.FeedHeaderMismatchReplays := by
  intro s b hf hc hm rpl k again
  rw [exec_feed_eq, execFeed_mismatch hf hc hm, replay_eq _ _ _ _ _ _ rfl rfl]
  congr 1
  simp only [k, again, rpl, findIdx_sync_cons]
  by_cases h0 : s.hbuf.b0 = 0x55#8
  · simp [h0, headerCalc]
  by_cases h1 : s.hbuf.b1 = 0x55#8
  · simp [h0, h1, headerCalc]
  by_cases h2 : s.hbuf.b2 = 0x55#8
  · simp [h0, h1, h2, headerCalc]
  by_cases h3 : s.hbuf.b3 = 0x55#8
  · simp [h0, h1, h2, h3, headerCalc]
  by_cases h4 : b = 0x55#8
  · simp [h0, h1, h2, h3, h4, headerCalc]
  · simp [h0, h1, h2, h3, h4, headerCalc]

/-- Settles O30: the match branch of `execFeed_lastByte`, and `dispatchTelegram_eq`. -/
theorem frameEndDispatchesTelegram : Obligations.FrameEndDispatchesTelegram := by
  intro s b data opt hfsm htotal hlast hdata hopt heq
  rw [exec_feed_eq, execFeed_lastByte hfsm htotal hlast hdata hopt, if_neg (not_not.2 heq), dispatchTelegram_eq]
  rfl

/-! ### What one FEED counts and reports -/

/-- No data portion ends in DecodeValueError (43_unpack_dispatch.md R189, decision D29). -/
theorem verdict_ne_decodeErr (d : List Byte) (p : Profile) : verdict d ≠ .decodeErr p := by
  intro hd
  obtain ⟨v, hv, hreport⟩ := dispatchTelegram_reports d
  have h := hreport { pt := 0, hcrc := 0, data := d, opt := [], dcrc := 0 } State.reset rfl
  rw [dispatchTelegram_eq, hd] at h
  cases v with
  | decodeErr q => exact hv q rfl
  | _ => simp [Verdict.report] at h

/-- A frame's end is a DataCrcError, or a telegram counted as valid and the outcome of its data portion. -/
theorem completeFrame_reports {s s' : State} (h : completeFrame s = .next s') :
    ∃ t, candidate s = .ok t ∧
      ((s.dacc ≠ t.dcrc ∧ s' = { s with
        cntDataCrc := s.cntDataCrc + 1, cntError := s.cntError + 1, out := s.out ++ [.dataCrcErr t s.dacc] }) ∨
       (s.dacc = t.dcrc ∧ s' = (verdict t.data).report t (inc .valid s))) := by
  obtain ⟨t, ht, ⟨hne, rfl⟩ | ⟨heq, hd⟩⟩ := completeFrame_eq_next h
  · exact ⟨t, ht, .inl ⟨hne, raise_dataCrcError _ _⟩⟩
  · rw [dispatchTelegram_eq] at hd
    exact ⟨t, ht, .inr ⟨heq, (Host.Outcome.next.inj hd).symm⟩⟩

theorem counter_report_valid (v : Verdict) (t : Telegram) (s : State) (c : Counter) :
    counter c (v.report t (inc .valid s)) =
      counter c s + if c ∈ causeCounters (eventCause (v.event t)) then 1 else 0 := by
  cases v <;> cases c <;>
    simp [counter, Verdict.report, inc, Verdict.event, eventCause, causeCounters]

/-- Where an event comes from: a header error from the fifth header byte (41_frame_assembler.md R129), any other from a frame's last byte (42_validator.md R160). -/
def EventPlace (s s' : State) (e : Event) : Prop :=
  (s.fsm = .readingHeader ∧ s.hcnt.toNat = 4 ∧ eventCause e = .headerCrcError) ∨
  (s.fsm = .readingData ∧ s'.fsm = .seekingSync ∧ eventCause e ≠ .headerCrcError)

/-- One FEED reports at most one event; with none it counts nothing but discarded bytes, with one it counts that event's row of 60_exceptions.md R260. -/
theorem execFeed_reports {b : Byte} {s s' : State} (h : execFeed b s = .next s') :
    (s'.out = s.out ∧ ∀ c, c ≠ .syncDiscard → counter c s' = counter c s) ∨
    ∃ e, s'.out = s.out ++ [e] ∧ EventPlace s s' e ∧ (∀ t p, e ≠ .decodeErr t p) ∧
      ∀ c, c ≠ .syncDiscard → counter c s' = counter c s + if c ∈ causeCounters (eventCause e) then 1 else 0 := by
  obtain ⟨-, -, rfl⟩ | ⟨-, -, rfl⟩ | ⟨-, -, hb, -, rfl⟩ | ⟨-, -, -, rfl⟩ |
    ⟨hf, hc, -, fsm, hcnt, hb, n, -, -, rfl⟩ | ⟨-, -, -, rfl⟩ | ⟨hf, -, -, hend⟩ := execFeed_cases h
  · exact .inl ⟨rfl, fun c _ => by cases c <;> rfl⟩
  · exact .inl ⟨rfl, fun c hc => (counter_inc_other .syncDiscard c s hc)⟩
  · exact .inl ⟨rfl, fun c _ => by cases c <;> rfl⟩
  · exact .inl ⟨rfl, fun c _ => by cases c <;> rfl⟩
  · refine .inr ⟨_, rfl, .inl ⟨hf, hc, rfl⟩, by simp, fun c hne => ?_⟩
    cases c <;> simp [counter, eventCause, causeCounters] at hne ⊢
  · exact .inl ⟨rfl, fun c _ => by cases c <;> rfl⟩
  · obtain ⟨t, -, ⟨-, rfl⟩ | ⟨-, rfl⟩⟩ := completeFrame_reports hend
    · refine .inr ⟨_, rfl, .inr ⟨hf, rfl, by simp [eventCause]⟩, by simp, fun c _ => ?_⟩
      cases c <;> simp [counter, eventCause, causeCounters]
    · refine .inr ⟨_, report_out _ _ _, .inr ⟨hf, by simp, ?_⟩, fun t' p => ?_, fun c _ => ?_⟩
      · cases verdict t.data <;> simp [Verdict.event, eventCause]
      · cases hd : verdict t.data with
        | decodeErr q => exact absurd hd (verdict_ne_decodeErr t.data q)
        | _ => simp [Verdict.event]
      · rw [counter_report_valid]
        cases c <;> rfl

/-- Settles O31: the place of the event in `execFeed_reports`. -/
theorem feedEmitsAtMostOneEvent : Obligations.FeedEmitsAtMostOneEvent := by
  intro s s' b h
  obtain ⟨hout, -⟩ | ⟨e, hout, hplace, -⟩ := execFeed_reports h
  · exact .inl hout
  · exact .inr ⟨e, hout, hplace⟩

/-- Settles O57: the counters of `execFeed_reports`, the row of each cause by its code. -/
theorem eventTellsItsCounters : Obligations.EventTellsItsCounters := by
  intro s s' b c h hc
  obtain ⟨hout, hcount⟩ | ⟨e, hout, -, -, hcount⟩ := execFeed_reports h
  · exact ⟨fun _ => hcount c hc, fun e he => by simp [hout] at he⟩
  · refine ⟨fun hnone => by simp [hout] at hnone, fun e' he' => ?_⟩
    obtain rfl : e' = e := by simpa [hout] using he'.symm
    rw [hcount c hc]
    cases e' <;> exact ⟨rfl, rfl⟩

/-! ### What one FEED stores -/

/-- FEED writes FBUF in READING_DATA only, and there at index `dcnt`; the number of RESETs stays. -/
theorem execFeed_fbuf {b : Byte} {s s' : State} (h : execFeed b s = .next s') :
    s'.freeCount = s.freeCount ∧
    ((s.fsm = .readingData ∧ s.dcnt.toNat < Config.fbufBytes ∧ s'.fbuf = memSet s.fbuf s.dcnt.toNat b) ∨
     (s.fsm ≠ .readingData ∧ s'.fbuf = s.fbuf)) := by
  obtain ⟨hf, -, rfl⟩ | ⟨hf, -, rfl⟩ | ⟨hf, -, hb, -, rfl⟩ | ⟨hf, -, -, rfl⟩ |
    ⟨hf, -, -, fsm, hcnt, hb, n, -, -, rfl⟩ | ⟨hf, hi, -, rfl⟩ | ⟨hf, hi, -, hend⟩ := execFeed_cases h
  iterate 5
    · exact ⟨rfl, .inr ⟨by simp [hf], rfl⟩⟩
  · exact ⟨rfl, .inl ⟨hf, hi, rfl⟩⟩
  · obtain ⟨t, -, ⟨-, rfl⟩ | ⟨-, rfl⟩⟩ := completeFrame_reports hend
    · exact ⟨rfl, .inl ⟨hf, hi, rfl⟩⟩
    · exact ⟨by simp, .inl ⟨hf, hi, by simp⟩⟩

/-- Settles O12: a read after the write of `execFeed_fbuf`, at its index and at the others. -/
theorem feedStoresOnlyAtProgress : Obligations.FeedStoresOnlyAtProgress := by
  intro s s' b h
  obtain ⟨hcount, ⟨hf, hi, hbuf⟩ | ⟨hf, hbuf⟩⟩ := execFeed_fbuf h
  · rw [hcount, hbuf]
    refine ⟨fun _ => ⟨memGet_memSet_same _ _ _, loadByte_memSet_same hi⟩, fun a ha => ?_⟩
    have hne : a ≠ s.dcnt.toNat := fun heq => ha ⟨hf, heq⟩
    exact ⟨memGet_memSet_other _ _ _ _ hne, loadByte_memSet_other hne⟩
  · rw [hcount, hbuf]
    exact ⟨fun hd => absurd hd hf, fun a _ => ⟨rfl, rfl⟩⟩

end Sys2Proof.Machine

/-! Steps (20_memory.md R60 to R62; log 1 to log 3): what a step can do, said once; what every step keeps; and request streams with and without their IDLEs and reads. -/
namespace Sys2Proof.Machine

/-! ### One step -/

theorem step_port {s : State} {w : BitVec 10} {rest : List Request} (h : s.requests = .port w :: rest) :
    step s = exec (decodePort w) (beginTransaction { s with requests := rest }) := by
  rw [step, fetch, h]

theorem step_read {s : State} {a : Byte} {rest : List Request} (h : s.requests = .read a :: rest) :
    step s = .next { s with requests := rest, readData := some (regRead a s) } := by
  rw [step, fetch, h]; rfl

theorem step_nil {s : State} (h : s.requests = []) : step s = .next (beginTransaction s) := by
  rw [step, fetch, h]; rfl

/-- Settles O8. -/
theorem stepRunsPortWord : Obligations.StepRunsPortWord := ⟨fun _ _ _ h => step_port h, fun _ h => step_nil h⟩

/-- Settles O9: the read is a step that writes the read port and the request list only. -/
theorem stepRunsRegisterRead : Obligations.StepRunsRegisterRead :=
  fun _ _ _ h => ⟨step_read h, _, step_read h, rfl, rfl, rfl⟩

/-- Settles O10: a placed word is the next request, and its table encoding is the word itself. -/
theorem placedWordRunsNext : Obligations.PlacedWordRunsNext :=
  fun _ _ => ⟨step_port rfl, step_read rfl, rfl, rfl⟩

/-- A port word is a RESET, a FEED or an IDLE (30_encoding.md R71). -/
theorem decodePort_cases (w : BitVec 10) :
    (∃ x, decodePort w = .reset x) ∨ (∃ b, decodePort w = .feed b) ∨ ∃ x, decodePort w = .idle x := by
  obtain h | h := Nat.lt_or_ge w.toNat 512
  · obtain h' | h' := Nat.lt_or_ge w.toNat 256
    · exact .inr (.inr ⟨_, decodePort_idle h'⟩)
    · exact .inr (.inl ⟨_, decodePort_feed h' h⟩)
  · exact .inl ⟨_, decodePort_reset h⟩

/-- Everything a step that goes on can do: a RESET, a FEED, or nothing but its two ports and the requests (20_memory.md R60). -/
theorem step_cases {s s' : State} (h : step s = .next s') :
    ∃ rest, (∃ x, exec (.reset x) (beginTransaction { s with requests := rest }) = .next s') ∨
      (∃ b, execFeed b (beginTransaction { s with requests := rest }) = .next s') ∨
      s' = beginTransaction { s with requests := rest } ∨
      ∃ rd, s' = { s with requests := rest, readData := rd } := by
  cases hr : s.requests with
  | nil =>
    rw [step_nil hr] at h
    cases h
    exact ⟨s.requests, .inr (.inr (.inl rfl))⟩
  | cons r rest =>
    refine ⟨rest, ?_⟩
    cases r with
    | port w =>
      rw [step_port hr] at h
      obtain ⟨x, hx⟩ | ⟨b, hb⟩ | ⟨x, hx⟩ := decodePort_cases w
      · exact .inl ⟨x, by rwa [hx] at h⟩
      · exact .inr (.inl ⟨b, by rwa [hb] at h⟩)
      · rw [hx] at h
        cases h
        exact .inr (.inr (.inl rfl))
    | read a =>
      rw [step_read hr] at h
      cases h
      exact .inr (.inr (.inr ⟨_, rfl⟩))

/-! ### What every step keeps -/

/-- The invariant speaks of the block alone: not of the ports, nor of what the host still asks. -/
theorem Inv.of_ports {s : State} (hi : Inv s) (out : List Event) (rd : Option Word) (rq : List Request) :
    Inv { s with out := out, readData := rd, requests := rq } := { hi with }

/-- Settles O3: a RESET ends in reset values, a FEED keeps the invariant by `execFeed_goes`, and no other step touches the block. -/
theorem stepKeepsInvariant : Obligations.StepKeepsInvariant := by
  intro s s' hi h
  obtain ⟨rest, ⟨x, hx⟩ | ⟨b, hb⟩ | rfl | ⟨rd, rfl⟩⟩ := step_cases h
  · obtain rfl := exec_reset_next hx
    exact inv_of_reset_fields rfl rfl rfl
  · obtain ⟨s'', hnext, hi'⟩ := execFeed_goes (hi.of_ports [] none rest) b
    cases hb.symm.trans hnext
    exact hi'
  · exact hi.of_ports [] none rest
  · exact hi.of_ports s.out rd rest

theorem counterLaws_iff (s : State) : counterLaws s ↔
    counter .valid s = counter .lenMismatch s + counter .unknown s + counter .decodeErr s + counter .decoded s ∧
    counter .error s = counter .hdrCrc s + counter .dataCrc s + counter .lenMismatch s + counter .decodeErr s := Iff.rfl

/-- By how much an outcome of a cause makes a counter grow: a row of 60_exceptions.md R260. -/
def causeGrowth (cause : Cause) (c : Counter) : Word := if c ∈ causeCounters cause then 1 else 0

/-- Every row of 60_exceptions.md R260 meets the two laws by itself. -/
theorem causeGrowth_laws (cause : Cause) :
    causeGrowth cause .valid = causeGrowth cause .lenMismatch + causeGrowth cause .unknown +
      causeGrowth cause .decodeErr + causeGrowth cause .decoded ∧
    causeGrowth cause .error = causeGrowth cause .hdrCrc + causeGrowth cause .dataCrc +
      causeGrowth cause .lenMismatch + causeGrowth cause .decodeErr := by
  cases cause <;> decide

/-- Growth by one row keeps the two laws (10_state.md R31). -/
theorem counterLaws_of_cause {s s' : State} (cause : Cause) (hs : counterLaws s)
    (h : ∀ c, c ≠ .syncDiscard → counter c s' = counter c s + causeGrowth cause c) : counterLaws s' := by
  obtain ⟨hvalid, herror⟩ := (counterLaws_iff s).1 hs
  obtain ⟨hvalid', herror'⟩ := causeGrowth_laws cause
  rw [counterLaws_iff, h .valid (by decide), h .error (by decide), h .lenMismatch (by decide), h .unknown (by decide),
    h .decodeErr (by decide), h .decoded (by decide), h .hdrCrc (by decide), h .dataCrc (by decide),
    hvalid, herror, hvalid', herror']
  constructor <;> ac_rfl

theorem execFeed_counterLaws {b : Byte} {s s' : State} (hs : counterLaws s) (h : execFeed b s = .next s') : counterLaws s' := by
  obtain ⟨-, hcount⟩ | ⟨e, -, -, -, hcount⟩ := execFeed_reports h
  · exact counterLaws_of_cause .sourceUnavailable hs fun c hc => (hcount c hc).trans (BitVec.add_zero _).symm
  · exact counterLaws_of_cause (eventCause e) hs hcount

/-- Settles O4: RESET clears every counter, FEED counts whole rows, and no other step counts. -/
theorem stepKeepsCounterLaws : Obligations.StepKeepsCounterLaws := by
  refine ⟨⟨rfl, rfl⟩, fun s s' hs h => ?_⟩
  obtain ⟨rest, ⟨x, hx⟩ | ⟨b, hb⟩ | rfl | ⟨rd, rfl⟩⟩ := step_cases h
  · obtain rfl := exec_reset_next hx
    exact ⟨rfl, rfl⟩
  · exact execFeed_counterLaws (s := beginTransaction { s with requests := rest }) hs hb
  · exact hs
  · exact hs

/-- Settles O58: no FEED reports DecodeValueError, so none counts it; a RESET leaves no event and clears the count. -/
theorem noDecodeErrorEver : Obligations.NoDecodeErrorEver := by
  intro s s' h
  obtain ⟨rest, ⟨x, hx⟩ | ⟨b, hb⟩ | rfl | ⟨rd, rfl⟩⟩ := step_cases h
  · obtain rfl := exec_reset_next hx
    exact ⟨.inr rfl, fun t p hmem => nomatch hmem⟩
  · obtain ⟨hout, hcount⟩ | ⟨e, hout, -, hne, hcount⟩ := execFeed_reports hb
    · exact ⟨.inl (hcount .decodeErr (by decide)), fun t p hmem => by simp [hout] at hmem⟩
    · refine ⟨.inl ?_, fun t p hmem => ?_⟩
      · refine (hcount .decodeErr (by decide)).trans ?_
        cases e <;> simp [eventCause, causeCounters, counter] at hne ⊢
      · simp only [hout, beginTransaction_out, List.nil_append, List.mem_singleton] at hmem
        exact absurd hmem.symm (hne t p)
  · exact ⟨.inl rfl, fun t p hmem => nomatch hmem⟩
  · exact ⟨.inl rfl, fun t p hmem => hmem⟩

/-! ### Request streams -/

/-- The step of a port word sees the block alone, whatever stood on the ports. -/
theorem serve_port (w : BitVec 10) (s : State) : serve (.port w) s = exec (decodePort w) (blockOf s) :=
  step_port (s := { s with requests := [.port w] }) rfl

theorem serve_read (a : Byte) (s : State) :
    serve (.read a) s = .next { s with requests := [], readData := some (regRead a s) } :=
  step_read (s := { s with requests := [.read a] }) rfl

/-- A request that changes nothing puts out no event and leaves the block. -/
theorem serve_unchanging {r : Request} (h : changesBlock r = false) (s : State) :
    ∃ s', serve r s = .next s' ∧ newEvents r s' = [] ∧ blockOf s' = blockOf s := by
  cases r with
  | port w =>
    obtain ⟨hrst, hvalid⟩ : w.getLsbD 9 = false ∧ w.getLsbD 8 = false := by simpa [changesBlock] using h
    have hidle : decodePort w = .idle (w.extractLsb' 0 8) := by simp only [decodePort, hrst, hvalid]; rfl
    exact ⟨blockOf s, by rw [serve_port, hidle]; rfl, rfl, rfl⟩
  | read a => exact ⟨_, serve_read a s, rfl, rfl⟩

/-- A request that can change the block does the same from every state of the same block. -/
theorem serve_congr {r : Request} (h : changesBlock r = true) {s₁ s₂ : State} (hb : blockOf s₁ = blockOf s₂) :
    serve r s₁ = serve r s₂ := by
  cases r with
  | port w => rw [serve_port, serve_port, hb]
  | read a => cases h

theorem trace_cons_eq_some {r : Request} {rs : List Request} {s s' : State} {es : List Event} :
    trace (r :: rs) s = some (es, s') ↔
      ∃ s₁ es₁, serve r s = .next s₁ ∧ trace rs s₁ = some (es₁, s') ∧ es = newEvents r s₁ ++ es₁ := by
  rw [trace]
  cases serve r s with
  | next s₁ =>
    simp only [Option.map_eq_some_iff, Prod.mk.injEq, Prod.exists, Host.Outcome.next.injEq]
    constructor
    · rintro ⟨es₁, s₂, h, rfl, rfl⟩; exact ⟨s₁, es₁, rfl, h, rfl⟩
    · rintro ⟨_, es₁, rfl, h, rfl⟩; exact ⟨es₁, s', h, rfl, rfl⟩
  | fault e => simp
  | refused e => simp

/-- The stream without its IDLEs and reads, run from any state of the same block. -/
theorem trace_filter {rs : List Request} {s₁ s₂ s' : State} {es : List Event} (hb : blockOf s₁ = blockOf s₂)
    (h : trace rs s₁ = some (es, s')) :
    ∃ s'', trace (rs.filter changesBlock) s₂ = some (es, s'') ∧ blockOf s'' = blockOf s' := by
  induction rs generalizing s₁ s₂ es with
  | nil => cases h; exact ⟨s₂, rfl, hb.symm⟩
  | cons r rs ih =>
    obtain ⟨s₃, es₁, hserve, hrest, rfl⟩ := trace_cons_eq_some.1 h
    cases hr : changesBlock r with
    | true =>
      obtain ⟨s'', htrace, hblock⟩ := ih rfl hrest
      rw [List.filter_cons_of_pos hr]
      exact ⟨s'', trace_cons_eq_some.2 ⟨s₃, es₁, (serve_congr hr hb).symm.trans hserve, htrace, rfl⟩, hblock⟩
    | false =>
      obtain ⟨s₄, hserve', hnone, hsame⟩ := serve_unchanging hr s₁
      cases hserve.symm.trans hserve'
      rw [List.filter_cons_of_neg (by simp [hr]), hnone]
      exact ih (hsame.trans hb) hrest

/-- Settles O13: `trace_filter`, from the state itself. -/
theorem idlesAndReadsAreTransparent : Obligations.IdlesAndReadsAreTransparent := fun _ _ _ _ h => trace_filter rfl h

end Sys2Proof.Machine

/-! The CRC-8 against errors (40_crc8.md R105, R106): linearity and residue over byte lists, that one changed byte always shows, and the CRC bit by bit, a shift register that keeps the parity of the bits and repeats after 127 zeros. -/
namespace Sys2Proof.Machine

/-! ### Byte lists -/

theorem crc8_nil : crc8 [] = 0 := by rw [crc8_eq_foldl]; rfl

theorem crc8_zero_cons (xs : List Byte) : crc8 (0x00 :: xs) = crc8 xs := by
  rw [crc8_eq_foldl, crc8_eq_foldl, List.foldl_cons]
  exact congrArg (fun c => xs.foldl crc8Update c) crc8Update_zero_zero

theorem crc8_xorBytes {xs ys : List Byte} (h : xs.length = ys.length) : crc8 (xorBytes xs ys) = crc8 xs ^^^ crc8 ys := by
  rw [crc8_eq_foldl, crc8_eq_foldl, crc8_eq_foldl, ← foldl_crc8Update_linear xs ys h, BitVec.xor_self]
  rfl

/-- An update loses nothing: it gives 0 only when the register is the byte. -/
theorem crc8Update_eq_zero_iff {c b : Byte} : crc8Update c b = 0 ↔ c = b := by
  rw [crc8Update_xor, crc8Update_eq_zero]
  exact BitVec.xor_eq_zero_iff

/-- The residue: a list and one byte have CRC 0 exactly when the byte is the list's CRC (40_crc8.md R105). -/
theorem crc8_snoc_eq_zero_iff {xs : List Byte} {b : Byte} : crc8 (xs ++ [b]) = 0 ↔ crc8 xs = b := by
  rw [← crc8_snoc, crc8Update_eq_zero_iff]

/-- Settles O21. -/
theorem crcLinearAndResidue : Obligations.CrcLinearAndResidue :=
  ⟨crc8_nil, crc8_zero_cons, fun _ _ h => crc8_xorBytes h, fun _ => crc8_snoc_eq_zero_iff.2 rfl⟩

theorem crc8Update_left_injective {c d b : Byte} (h : crc8Update c b = crc8Update d b) : c = d := by
  have hxor : crc8Update (c ^^^ d) (b ^^^ b) = 0 := by rw [crc8Update_linear, h, BitVec.xor_self]; rfl
  rwa [BitVec.xor_self, crc8Update_eq_zero_iff, BitVec.xor_eq_zero_iff] at hxor

theorem crc8Update_right_injective {c a b : Byte} (h : crc8Update c a = crc8Update c b) : a = b := by
  have hxor : crc8Update (c ^^^ c) (a ^^^ b) = 0 := by rw [crc8Update_linear, h, BitVec.xor_self]; rfl
  rw [BitVec.xor_self, crc8Update_eq_zero_iff] at hxor
  exact BitVec.xor_eq_zero_iff.1 hxor.symm

theorem foldl_crc8Update_injective {xs : List Byte} {c d : Byte} (h : xs.foldl crc8Update c = xs.foldl crc8Update d) :
    c = d := by
  induction xs generalizing c d with
  | nil => exact h
  | cons x xs ih => exact crc8Update_left_injective (ih h)

/-- One changed byte always changes the CRC. -/
theorem crc8_modify_ne {xs : List Byte} {i : Nat} {f : Byte → Byte} (hi : i < xs.length) (hf : ∀ b, f b ≠ b) :
    crc8 (xs.modify i f) ≠ crc8 xs := by
  intro h
  rw [List.modify_eq_take_cons_drop hi, crc8_append] at h
  have hsplit : xs = xs.take i ++ xs[i] :: xs.drop (i + 1) := by simp
  rw [congrArg crc8 hsplit, crc8_append] at h
  exact hf _ (crc8Update_right_injective (foldl_crc8Update_injective h))

/-! ### Bit by bit -/

/-- One bit shifted into the register, most significant first (40_crc8.md R100). -/
def bitStep (c : Byte) (b : Bool) : Byte := crc8Shift (c ^^^ if b then 0x80 else 0x00)

theorem bitStep_false (c : Byte) : bitStep c false = crc8Shift c := by simp [bitStep]

theorem foldl_bitStep_xor (bs : List Bool) (c d : Byte) :
    bs.foldl bitStep (c ^^^ d) = bs.foldl bitStep c ^^^ (List.replicate bs.length false).foldl bitStep d := by
  induction bs generalizing c d with
  | nil => rfl
  | cons b bs ih =>
    have hstep : bitStep (c ^^^ d) b = bitStep c b ^^^ bitStep d false := by
      rw [bitStep_false, bitStep, bitStep, ← crc8Shift_xor]
      congr 1
      ac_rfl
    rw [List.foldl_cons, hstep, ih]
    rfl

theorem foldl_byteBits_zero : ∀ x : Byte, (byteBits x).foldl bitStep 0 = crc8Update 0 x := by decide +kernel

/-- An update is eight bits shifted in. -/
theorem foldl_byteBits (c x : Byte) : (byteBits x).foldl bitStep c = crc8Update c x := by
  have hzero : (List.replicate 8 false).foldl bitStep c = crc8Update c 0 := by
    simp only [List.replicate, List.foldl_cons, List.foldl_nil, bitStep_false, crc8Update, BitVec.xor_zero, BitVec.ofNat_eq_ofNat]
  have hsplit := foldl_bitStep_xor (byteBits x) 0#8 c
  rw [BitVec.zero_xor] at hsplit
  calc (byteBits x).foldl bitStep c = crc8Update 0 x ^^^ crc8Update c 0 :=
      hsplit.trans (congrArg₂ (· ^^^ ·) (foldl_byteBits_zero x) hzero)
    _ = crc8Update (0#8 ^^^ c) (x ^^^ 0#8) := (crc8Update_linear 0 c x 0).symm
    _ = crc8Update c x := by rw [BitVec.zero_xor, BitVec.xor_zero]

theorem crc8_eq_foldl_bits (e : List Byte) : crc8 e = (bitsOf e).foldl bitStep 0 := by
  rw [crc8_eq_foldl]
  generalize (0 : Byte) = c
  induction e generalizing c with
  | nil => rfl
  | cons x xs ih =>
    rw [List.foldl_cons, ih, ← foldl_byteBits c x, ← List.foldl_append]
    rfl

/-- The parity of a register's set bits. -/
def parity (c : Byte) : Nat := (byteBits c).count true % 2

/-- The polynomial has an even number of terms, so a bit shifted in changes the register's parity by its own. -/
theorem parity_bitStep : ∀ (b : Bool) (c : Byte), parity (bitStep c b) = (parity c + b.toNat) % 2 := by decide +kernel

theorem parity_foldl (bs : List Bool) (c : Byte) : parity (bs.foldl bitStep c) = (parity c + bs.count true) % 2 := by
  induction bs generalizing c with
  | nil => exact (Nat.mod_mod _ 2).symm
  | cons b bs ih =>
    rw [List.foldl_cons, ih, parity_bitStep]
    cases b with
    | true => simp; omega
    | false => simp

/-- An odd number of flipped bits. -/
theorem crc8_ne_zero_of_odd {e : List Byte} (h : (bitsOf e).count true % 2 = 1) : crc8 e ≠ 0 := by
  intro hzero
  have hparity := parity_foldl (bitsOf e) 0
  rw [← crc8_eq_foldl_bits, hzero, show parity 0 = 0 from rfl, Nat.zero_add, h] at hparity
  cases hparity

/-! ### Runs of zeros, and where the ones are -/

theorem crc8Shift_eq_zero : ∀ c : Byte, crc8Shift c = 0 ↔ c = 0 := by decide +kernel

theorem foldl_falses_eq_zero (n : Nat) (c : Byte) : (List.replicate n false).foldl bitStep c = 0 ↔ c = 0 := by
  induction n generalizing c with
  | zero => rfl
  | succ n ih => rw [List.replicate_succ, List.foldl_cons, ih, bitStep_false, crc8Shift_eq_zero]

theorem eq_replicate_of_not_mem {bs : List Bool} (h : true ∉ bs) : bs = List.replicate bs.length false :=
  List.eq_replicate_iff.2 ⟨rfl, fun b hb => by cases b with
    | true => exact absurd hb h
    | false => rfl⟩

/-- Bits without a one keep a zero register at zero and no other. -/
theorem foldl_eq_zero_of_not_mem {bs : List Bool} (h : true ∉ bs) (c : Byte) : bs.foldl bitStep c = 0 ↔ c = 0 := by
  rw [eq_replicate_of_not_mem h, foldl_falses_eq_zero]

theorem not_mem_take {bs : List Bool} {n : Nat} (h : ∀ j < n, bs[j]? ≠ some true) : true ∉ bs.take n := by
  intro hmem
  obtain ⟨j, hj⟩ := List.mem_iff_getElem?.1 hmem
  rw [List.getElem?_take] at hj
  split at hj
  · next hlt => exact h j hlt hj
  · cases hj

theorem not_mem_drop {bs : List Bool} {n : Nat} (h : ∀ j, n ≤ j → bs[j]? ≠ some true) : true ∉ bs.drop n := by
  intro hmem
  obtain ⟨j, hj⟩ := List.mem_iff_getElem?.1 hmem
  rw [List.getElem?_drop] at hj
  exact h _ (Nat.le_add_right n j) hj

/-! ### Bursts -/

theorem eightBits_ne_zero : ∀ b0 b1 b2 b3 b4 b5 b6 b7 : Bool, true ∈ [b0, b1, b2, b3, b4, b5, b6, b7] →
    [b0, b1, b2, b3, b4, b5, b6, b7].foldl bitStep 0 ≠ 0 := by decide +kernel

/-- At most eight bits, one of them set, from a zero register: padded with zeros they are one of the 255 non-zero bytes. -/
theorem foldl_window_ne_zero {w : List Bool} (hlen : w.length ≤ 8) (hmem : true ∈ w) : w.foldl bitStep 0 ≠ 0 := by
  have hpad : (w ++ List.replicate (8 - w.length) false).length = 8 := by simp; omega
  have hne : (w ++ List.replicate (8 - w.length) false).foldl bitStep 0 ≠ 0 := by
    have hmem' : true ∈ w ++ List.replicate (8 - w.length) false := List.mem_append_left _ hmem
    generalize w ++ List.replicate (8 - w.length) false = v at hpad hmem' ⊢
    match v, hpad with
    | [b0, b1, b2, b3, b4, b5, b6, b7], _ => exact eightBits_ne_zero b0 b1 b2 b3 b4 b5 b6 b7 hmem'
  intro hzero
  rw [List.foldl_append, hzero] at hne
  exact hne ((foldl_falses_eq_zero _ 0).2 rfl)

/-- A burst within eight bit positions. -/
theorem crc8_ne_zero_of_burst {e : List Byte} {p : Nat} (hmem : true ∈ bitsOf e)
    (hburst : ∀ j, (bitsOf e)[j]? = some true → p ≤ j ∧ j < p + 8) : crc8 e ≠ 0 := by
  rw [crc8_eq_foldl_bits]
  generalize bitsOf e = bs at hmem hburst ⊢
  have hbefore : true ∉ bs.take p := not_mem_take fun j hj h => by have := hburst j h; omega
  have hafter : true ∉ bs.drop (p + 8) := not_mem_drop fun j hj h => by have := hburst j h; omega
  have hsplit : bs = bs.take p ++ ((bs.drop p).take 8 ++ bs.drop (p + 8)) := by
    rw [← List.drop_drop, List.take_append_drop, List.take_append_drop]
  have hwindow : true ∈ (bs.drop p).take 8 := by
    rw [hsplit] at hmem
    exact ((List.mem_append.1 hmem).resolve_left hbefore |> List.mem_append.1).resolve_right hafter
  rw [hsplit, List.foldl_append, (foldl_eq_zero_of_not_mem hbefore 0).2 rfl, List.foldl_append, ne_eq,
    foldl_eq_zero_of_not_mem hafter]
  exact foldl_window_ne_zero (by simp) hwindow

/-! ### Two bits 127 apart -/

/-- After a one, 126 zeros bring the register to where the next one cancels it: the polynomial's order is 127 (40_crc8.md R106). -/
theorem foldl_one_zeros : (List.replicate 126 false).foldl bitStep (bitStep 0 true) = 0x80 := by decide +kernel

/-- Exactly two flipped bits, 127 positions apart. -/
theorem crc8_eq_zero_of_two {e : List Byte} {p : Nat}
    (htwo : ∀ j, (bitsOf e)[j]? = some true ↔ (j = p ∨ j = p + 127)) : crc8 e = 0 := by
  rw [crc8_eq_foldl_bits]
  generalize bitsOf e = bs at htwo ⊢
  obtain ⟨hp, hfirst⟩ := List.getElem?_eq_some_iff.1 ((htwo p).2 (.inl rfl))
  obtain ⟨hq, hsecond⟩ := List.getElem?_eq_some_iff.1 ((htwo (p + 127)).2 (.inr rfl))
  have hbefore : true ∉ bs.take p := not_mem_take fun j hj h => by have := (htwo j).1 h; omega
  have hafter : true ∉ bs.drop (p + 127 + 1) := not_mem_drop fun j hj h => by have := (htwo j).1 h; omega
  have hbetween : (bs.drop (p + 1)).take 126 = List.replicate 126 false := by
    have hnone : true ∉ (bs.drop (p + 1)).take 126 := not_mem_take fun j hj h => by
      rw [List.getElem?_drop] at h
      have := (htwo _).1 h
      omega
    refine (eq_replicate_of_not_mem hnone).trans (congrArg (List.replicate · false) ?_)
    simp only [List.length_take, List.length_drop]
    omega
  have hsplit : bs = bs.take p ++ true :: (List.replicate 126 false ++ true :: bs.drop (p + 127 + 1)) := by
    rw [← hbetween]
    conv_lhs => rw [← List.take_append_drop p bs, List.drop_eq_getElem_cons hp, hfirst,
      ← List.take_append_drop 126 (bs.drop (p + 1)), List.drop_drop, List.drop_eq_getElem_cons hq, hsecond]
  rw [hsplit, List.foldl_append, (foldl_eq_zero_of_not_mem hbefore 0).2 rfl, List.foldl_cons, List.foldl_append,
    foldl_one_zeros, List.foldl_cons]
  exact (foldl_eq_zero_of_not_mem hafter _).2 rfl

/-- Settles O22. -/
theorem crcDetectsErrors : Obligations.CrcDetectsErrors :=
  ⟨fun _ h => crc8_ne_zero_of_odd h, fun _ _ hmem hburst => crc8_ne_zero_of_burst hmem hburst, fun _ _ h => crc8_eq_zero_of_two h⟩

end Sys2Proof.Machine

/-! A frame's end from the invariant (42_validator.md R161 to R164): what FBUF and the running CRC hold when the last byte comes, and what an event's telegram has passed. -/
namespace Sys2Proof.Machine

/-- In every state between steps, with one byte of a frame to come, FBUF holds the two portions and `dacc` is their CRC. -/
theorem Inv.payload {s : State} (hi : Inv s) (hf : s.fsm = .readingData) (hlast : s.dcnt.toNat + 1 = s.total.toNat) :
    ∃ data opt : List Byte, data.length = s.dl.toNat ∧ opt.length = s.ol.toNat ∧
      loadBytes s.freeCount s.fbuf 0 s.dl.toNat = .ok data ∧ loadBytes s.freeCount s.fbuf s.dl.toNat s.ol.toNat = .ok opt ∧
      HoldsBytes s.fbuf (data ++ opt) ∧ s.total.toNat = s.dl.toNat + s.ol.toNat + 1 ∧ s.dacc = crc8 (data ++ opt) := by
  obtain ⟨-, bs, hlen, hheld, hacc⟩ := hi.frame hf
  have htotal : s.total.toNat = s.dl.toNat + s.ol.toNat + 1 := hi.lengths.resolve_right fun h => by
    rw [h.1] at hlast
    cases hlast
  have hsum : bs.length = s.dl.toNat + s.ol.toNat := by omega
  have hload := hheld.loadBytes (e := s.freeCount) (hlen.trans_le (hi.dcnt_lt hf).le)
  rw [hsum] at hload
  obtain ⟨hdata, hopt⟩ := loadBytes_split hload
  rw [Nat.zero_add] at hopt
  refine ⟨_, _, loadBytes_length hdata, loadBytes_length hopt, hdata, hopt, ?_, htotal, ?_⟩
  · rwa [List.take_append_drop]
  · rwa [List.take_append_drop]

/-- Settles O37. -/
theorem frameEndCrcCoversPayload : Obligations.FrameEndCrcCoversPayload := fun _ hi hf hlast => hi.payload hf hlast

/-- The telegram of a frame that ended with the right data CRC has passed every check: its lengths and header CRC are the latched ones. -/
theorem Inv.candidate_checks {s : State} (hi : Inv s) {data opt : List Byte} (hdata : data.length = s.dl.toNat)
    (hopt : opt.length = s.ol.toNat) (hacc : s.dacc = crc8 (data ++ opt)) :
    let t : Telegram := { pt := s.pt, hcrc := s.hcrc, data := data, opt := opt, dcrc := s.dacc }
    t.lengthsFit = true ∧ t.headerCrcOk = true ∧ t.dataCrcOk = true := by
  intro t
  have hheader : t.header = [s.dl.extractLsb' 8 8, s.dl.extractLsb' 0 8, s.ol, s.pt] := by
    rw [Telegram.header, dl_eq hdata, ol_eq hopt]
  exact ⟨lengthsFit_of_toNat hdata hopt, beq_iff_eq.2 (by rw [hheader]; exact hi.latchedCrc), beq_iff_eq.2 hacc⟩

/-- The telegram that an event carries (30_encoding.md R92). -/
def eventTelegram : Event → Option Telegram
  | .decoded t _ => some t
  | .hdrCrcErr _ _ _ _ _ _ => none
  | .dataCrcErr t _ => some t
  | .lenMismatch t => some t
  | .unknown t _ _ _ _ => some t
  | .decodeErr t _ => some t

theorem eventTelegram_verdict (v : Verdict) (t : Telegram) : eventTelegram (v.event t) = some t := by cases v <;> rfl

/-- An event that is no CRC error comes from a frame's last byte that was the right data CRC, and carries that frame's telegram. -/
theorem execFeed_reports_telegram {s s' : State} {b : Byte} {e : Event} (hi : Inv s) (h : execFeed b s = .next s')
    (hout : s'.out = s.out ++ [e]) (hhdr : eventCause e ≠ .headerCrcError) (hdat : eventCause e ≠ .dataCrcError) :
    ∃ t, eventTelegram e = some t ∧ t.lengthsFit = true ∧ t.headerCrcOk = true ∧ t.dataCrcOk = true := by
  have hf : s.fsm = .readingData := by
    obtain ⟨hnone, -⟩ | ⟨e', he', ⟨-, -, hc⟩ | ⟨hf, -, -⟩, -⟩ := execFeed_reports h
    · simp [hnone] at hout
    · obtain rfl : e = e' := by simpa [he'] using hout.symm
      exact absurd hc hhdr
    · exact hf
  have hlt := (hi.frame hf).1
  obtain hmore | hlast : s.dcnt.toNat + 1 < s.total.toNat ∨ s.dcnt.toNat + 1 = s.total.toNat := by omega
  · rw [execFeed_data hf, consumeData_more (hi.dcnt_lt hf) hmore] at h
    cases h
    simp at hout
  · obtain ⟨data, opt, hdata, hopt, hload, hload', -, htotal, hacc⟩ := hi.payload hf hlast
    rw [execFeed_lastByte hf htotal hlast hload hload'] at h
    split at h
    · rw [raise_dataCrcError] at h
      cases h
      obtain rfl := List.singleton_inj.1 (List.append_cancel_left hout)
      exact absurd rfl hdat
    · next heq =>
      obtain rfl : s.dacc = b := not_not.1 heq
      rw [dispatchTelegram_eq] at h
      cases h
      rw [report_out, inc_out] at hout
      obtain rfl := List.singleton_inj.1 (List.append_cancel_left hout)
      exact ⟨_, eventTelegram_verdict _ _, hi.candidate_checks hdata hopt hacc⟩

/-- Settles O38: `execFeed_reports_telegram`, for the three events. -/
theorem reportedTelegramsPassedBothCrcs : Obligations.ReportedTelegramsPassedBothCrcs := by
  intro s s' b e t hi h hout he
  have hcarries : eventTelegram e = some t ∧ eventCause e ≠ .headerCrcError ∧ eventCause e ≠ .dataCrcError := by
    obtain ⟨r, rfl⟩ | rfl | ⟨rorg, func, type, raw, rfl⟩ := he
    · exact ⟨rfl, nofun, nofun⟩
    · exact ⟨rfl, nofun, nofun⟩
    · exact ⟨rfl, nofun, nofun⟩
  obtain ⟨htel, hhdr, hdat⟩ := hcarries
  obtain ⟨t', ht', hchecks⟩ := execFeed_reports_telegram hi h hout hhdr hdat
  cases htel.symm.trans ht'
  exact hchecks

end Sys2Proof.Machine

/-! A frame fed byte by byte (41_frame_assembler.md sections 1 and 2): the six header bytes, the payload, the last byte, and a whole frame from SEEKING_SYNC. -/
namespace Sys2Proof.Machine

theorem feedAll_nil (s : State) : feedAll [] s = .next s := rfl

theorem feedAll_cons (b : Byte) (bs : List Byte) (s : State) : feedAll (b :: bs) s = andThen (execFeed b s) (feedAll bs) := rfl

theorem feedAll_append (xs ys : List Byte) (s : State) : feedAll (xs ++ ys) s = andThen (feedAll xs s) (feedAll ys) :=
  consumeList_append _ xs ys s

/-! ### The header -/

/-- The block after a sync byte and four header bytes: the header CRC byte comes next. -/
def headerRead (h0 h1 h2 h3 : Byte) (s : State) : State :=
  { s with fsm := .readingHeader, hcnt := 4, hbuf := ⟨h0, h1, h2, h3, s.hbuf.b4⟩ }

theorem feedAll_headerBytes (h0 h1 h2 h3 : Byte) {s : State} (hf : s.fsm = .seekingSync) :
    feedAll [Config.sync, h0, h1, h2, h3] s = .next (headerRead h0 h1 h2 h3 s) := by
  obtain ⟨fsm, hcnt, hbuf, dl, ol, pt, hcrc, total, dcnt, dacc, fbuf, c0, c1, c2, c3, c4, c5, c6, c7, c8, out, rd, rq, fc⟩ := s
  subst hf
  rfl

theorem feedAll_sixth (h0 h1 h2 h3 hc : Byte) {s : State} (hf : s.fsm = .seekingSync) :
    feedAll [Config.sync, h0, h1, h2, h3, hc] s = execFeed hc (headerRead h0 h1 h2 h3 s) := by
  rw [show [Config.sync, h0, h1, h2, h3, hc] = [Config.sync, h0, h1, h2, h3] ++ [hc] from rfl, feedAll_append,
    feedAll_headerBytes _ _ _ _ hf, andThen_next, feedAll_cons]
  cases execFeed hc (headerRead h0 h1 h2 h3 s) <;> rfl

/-- The block right after a matching header: everything latched, the payload empty (41_frame_assembler.md R126). -/
def headerLatched (h0 h1 h2 h3 hc : Byte) (s : State) : State :=
  { s with
    fsm := .readingData, hcnt := 0, hbuf := ⟨h0, h1, h2, h3, hc⟩
    dl := h0 ++ h1, ol := h2, pt := h3, hcrc := hc, total := totalLength (h0 ++ h1) h2, dcnt := 0, dacc := 0 }

theorem feedAll_header {h0 h1 h2 h3 hc : Byte} (hm : crc8 [h0, h1, h2, h3] = hc) {s : State} (hf : s.fsm = .seekingSync) :
    feedAll [Config.sync, h0, h1, h2, h3, hc] s = .next (headerLatched h0 h1 h2 h3 hc s) :=
  (feedAll_sixth h0 h1 h2 h3 hc hf).trans (execFeed_match (s := headerRead h0 h1 h2 h3 s) rfl rfl hm)

/-- The block right after a header that fails its CRC, before its five bytes are scanned again (41_frame_assembler.md R129). -/
def headerRejected (h0 h1 h2 h3 hc : Byte) (s : State) : State :=
  { s with
    fsm := .seekingSync, hcnt := 0, hbuf := ⟨h0, h1, h2, h3, hc⟩
    cntHdrCrc := s.cntHdrCrc + 1, cntError := s.cntError + 1
    out := s.out ++ [.hdrCrcErr h0 h1 h2 h3 hc (crc8 [h0, h1, h2, h3])] }

theorem feedAll_header_mismatch {h0 h1 h2 h3 hc : Byte} (hm : crc8 [h0, h1, h2, h3] ≠ hc) {s : State} (hf : s.fsm = .seekingSync) :
    feedAll [Config.sync, h0, h1, h2, h3, hc] s =
      consumeList consumeReplayed [h0, h1, h2, h3, hc] (headerRejected h0 h1 h2 h3 hc s) :=
  (feedAll_sixth h0 h1 h2 h3 hc hf).trans (execFeed_mismatch (s := headerRead h0 h1 h2 h3 s) rfl rfl hm)

/-! ### The payload -/

/-- Payload bytes before the last one: stored from `dcnt` on, in the running CRC, counted. -/
theorem feedAll_payload {bs : List Byte} {s : State} (hf : s.fsm = .readingData)
    (hlt : s.dcnt.toNat + bs.length < s.total.toNat) (hmax : s.total.toNat ≤ Config.fbufBytes) :
    feedAll bs s = .next { s with
      fbuf := memSetList s.fbuf s.dcnt.toNat bs
      dacc := bs.foldl crc8Update s.dacc
      dcnt := s.dcnt + BitVec.ofNat 17 bs.length } := by
  induction bs generalizing s with
  | nil => simp [feedAll_nil, memSetList]
  | cons b bs ih =>
    rw [List.length_cons] at hlt
    have hnext : (s.dcnt + 1).toNat = s.dcnt.toNat + 1 := by bv_omega
    have hrest := ih (s := { s with
      fbuf := memSet s.fbuf s.dcnt.toNat b, dacc := crc8Update s.dacc b, dcnt := s.dcnt + 1 }) hf
      (by simp only [hnext]; omega) hmax
    have hcount : s.dcnt + BitVec.ofNat 17 (bs.length + 1) = s.dcnt + 1 + BitVec.ofNat 17 bs.length := by
      rw [Nat.add_comm, BitVec.ofNat_add, BitVec.add_assoc]; rfl
    rw [feedAll_cons, execFeed_data hf, consumeData_more (by omega) (by omega), andThen_next, hrest, hnext,
      List.length_cons, hcount]
    rfl

end Sys2Proof.Machine

/-! Whole frames (42_validator.md; 44_unpack_profiles.md R244): what a frame fed from SEEKING_SYNC leads to, and what a frame with a flipped bit leads to. -/
namespace Sys2Proof.Machine

/-- The block after the whole frame of a telegram, before its verdict (42_validator.md R160). -/
def frameRead (t : Telegram) (s : State) : State :=
  { s with
    fsm := .seekingSync, hcnt := 0
    hbuf := ⟨t.dl.extractLsb' 8 8, t.dl.extractLsb' 0 8, t.ol, t.pt, t.hcrc⟩
    dl := t.dl, ol := t.ol, pt := t.pt, hcrc := t.hcrc
    total := BitVec.ofNat 17 (t.data.length + t.opt.length + 1)
    dcnt := BitVec.ofNat 17 (t.data.length + t.opt.length + 1)
    dacc := crc8 (t.data ++ t.opt)
    fbuf := memSetList s.fbuf 0 (t.data ++ t.opt ++ [t.dcrc]) }

/-- The verdict on a whole frame: DataCrcError, or a valid telegram and the outcome of its data portion (42_validator.md R162, R163). -/
def frameOutcome (t : Telegram) (s : State) : State :=
  if t.dataCrcOk then (verdict t.data).report t { s with cntValid := s.cntValid + 1 }
  else { s with
    cntDataCrc := s.cntDataCrc + 1
    cntError := s.cntError + 1
    out := s.out ++ [.dataCrcErr t (crc8 (t.data ++ t.opt))] }

theorem totalLength_of_fits {t : Telegram} (hfit : t.lengthsFit = true) :
    totalLength t.dl t.ol = BitVec.ofNat 17 (t.data.length + t.opt.length + 1) := by
  rw [← dl_toNat hfit, ← ol_toNat hfit, ← totalLength_toNat, BitVec.ofNat_toNat, BitVec.setWidth_eq]

/-- A frame whose last byte comes next: the header of `t` latched, the payload in FBUF and in the running CRC. -/
structure FrameAwaits (t : Telegram) (s : State) : Prop where
  fsm : s.fsm = .readingData
  dl : s.dl = t.dl
  ol : s.ol = t.ol
  pt : s.pt = t.pt
  hcrc : s.hcrc = t.hcrc
  total : s.total = totalLength t.dl t.ol
  dcnt : s.dcnt.toNat = (t.data ++ t.opt).length
  dacc : s.dacc = crc8 (t.data ++ t.opt)
  held : HoldsBytes s.fbuf (t.data ++ t.opt)

theorem payload_length {t : Telegram} (hfit : t.lengthsFit = true) :
    (t.data ++ t.opt).length = t.dl.toNat + t.ol.toNat ∧ (t.data ++ t.opt).length < Config.fbufBytes := by
  have hdl := t.dl.isLt
  have hol := t.ol.isLt
  rw [List.length_append, ← dl_toNat hfit, ← ol_toNat hfit]
  unfold Config.fbufBytes
  omega

/-- The last byte of a frame: the verdict on its telegram. -/
theorem FrameAwaits.execFeed {t : Telegram} {s : State} (h : FrameAwaits t s) (hfit : t.lengthsFit = true) :
    execFeed t.dcrc s = .next (frameOutcome t { s with
      fbuf := memSet s.fbuf s.dcnt.toNat t.dcrc, dcnt := s.total, fsm := .seekingSync }) := by
  obtain ⟨hlen, hmax⟩ := payload_length hfit
  have htotal : s.total.toNat = s.dl.toNat + s.ol.toNat + 1 := by rw [h.total, totalLength_toNat, h.dl, h.ol]
  have hload := h.held.loadBytes (e := s.freeCount) hmax.le
  rw [hlen] at hload
  obtain ⟨hdata, hopt⟩ := loadBytes_split hload
  rw [← h.dl, h.dl, dl_toNat hfit, List.take_left, ← dl_toNat hfit, ← h.dl] at hdata
  rw [dl_toNat hfit, List.drop_left, Nat.zero_add, ← dl_toNat hfit, ← h.dl, ← h.ol] at hopt
  rw [execFeed_lastByte h.fsm htotal (by rw [h.dcnt, hlen, htotal, h.dl, h.ol]) hdata hopt, h.pt, h.hcrc, h.dacc]
  by_cases hcrc : t.dataCrcOk = true
  · rw [if_neg (not_not.2 (beq_iff_eq.1 hcrc).symm), dispatchTelegram_eq, frameOutcome, if_pos hcrc]
    rfl
  · have hne : crc8 (t.data ++ t.opt) ≠ t.dcrc := fun heq => hcrc (beq_iff_eq.2 heq.symm)
    rw [if_pos hne, raise_dataCrcError, frameOutcome, if_neg hcrc]

/-- The block before the last byte of a frame fed from SEEKING_SYNC. -/
def frameAwaiting (t : Telegram) (s : State) : State :=
  { s with
    fsm := .readingData, hcnt := 0
    hbuf := ⟨t.dl.extractLsb' 8 8, t.dl.extractLsb' 0 8, t.ol, t.pt, t.hcrc⟩
    dl := t.dl, ol := t.ol, pt := t.pt, hcrc := t.hcrc, total := totalLength t.dl t.ol
    dcnt := BitVec.ofNat 17 (t.data ++ t.opt).length
    dacc := crc8 (t.data ++ t.opt)
    fbuf := memSetList s.fbuf 0 (t.data ++ t.opt) }

theorem payload_length_toNat {t : Telegram} (hfit : t.lengthsFit = true) :
    (BitVec.ofNat 17 (t.data ++ t.opt).length).toNat = (t.data ++ t.opt).length := by
  have hmax := (payload_length hfit).2
  unfold Config.fbufBytes at hmax
  rw [BitVec.toNat_ofNat]
  omega

theorem frameAwaiting_awaits {t : Telegram} (hfit : t.lengthsFit = true) (s : State) : FrameAwaits t (frameAwaiting t s) :=
  ⟨rfl, rfl, rfl, rfl, rfl, rfl, payload_length_toNat hfit, rfl, holdsBytes_memSetList s.fbuf _⟩

theorem headerLatched_telegram (t : Telegram) (s : State) :
    headerLatched (t.dl.extractLsb' 8 8) (t.dl.extractLsb' 0 8) t.ol t.pt t.hcrc s =
      { frameAwaiting t s with dcnt := 0, dacc := 0, fbuf := s.fbuf } := by
  rw [headerLatched, append_extract]
  rfl

/-- Six header bytes and the payload bring the block to a frame's last byte. -/
theorem feedAll_untilLastByte {t : Telegram} (hfit : t.lengthsFit = true) (hhdr : t.headerCrcOk = true) {s : State}
    (hf : s.fsm = .seekingSync) :
    feedAll (Config.sync :: t.header ++ [t.hcrc] ++ (t.data ++ t.opt)) s = .next (frameAwaiting t s) := by
  obtain ⟨hlen, hmax⟩ := payload_length hfit
  have htotal : (totalLength t.dl t.ol).toNat = (t.data ++ t.opt).length + 1 := by rw [totalLength_toNat, hlen]
  have hheader := (feedAll_header (beq_iff_eq.1 hhdr).symm hf).trans (congrArg _ (headerLatched_telegram t s))
  have hpayload := feedAll_payload (bs := t.data ++ t.opt) (s := { frameAwaiting t s with dcnt := 0, dacc := 0, fbuf := s.fbuf })
    rfl (by rw [frameAwaiting, htotal]; simp) (by rw [frameAwaiting, htotal]; exact hmax)
  rw [feedAll_append]
  refine (congrArg (andThen · (feedAll (t.data ++ t.opt))) hheader).trans (hpayload.trans ?_)
  simp [frameAwaiting, crc8_eq_foldl]

theorem frameAwaiting_lastByte {t : Telegram} (hfit : t.lengthsFit = true) (s : State) :
    { frameAwaiting t s with
      fbuf := memSet (frameAwaiting t s).fbuf (frameAwaiting t s).dcnt.toNat t.dcrc
      dcnt := (frameAwaiting t s).total, fsm := .seekingSync } = frameRead t s := by
  have hbuf : memSetList s.fbuf 0 (t.data ++ t.opt ++ [t.dcrc]) =
      memSet (memSetList s.fbuf 0 (t.data ++ t.opt)) (t.data ++ t.opt).length t.dcrc := by
    rw [memSetList_append, Nat.zero_add]; rfl
  rw [frameRead, hbuf, ← totalLength_of_fits hfit, ← payload_length_toNat hfit]
  rfl

/-- A whole frame fed from SEEKING_SYNC: the frame read, and the verdict on it. -/
theorem feedAll_frame {t : Telegram} (hfit : t.lengthsFit = true) (hhdr : t.headerCrcOk = true) {s : State}
    (hf : s.fsm = .seekingSync) : feedAll (encodeFrame t) s = .next (frameOutcome t (frameRead t s)) := by
  have hbytes : encodeFrame t = (Config.sync :: t.header ++ [t.hcrc] ++ (t.data ++ t.opt)) ++ [t.dcrc] := by
    simp [encodeFrame]
  rw [hbytes, feedAll_append, feedAll_untilLastByte hfit hhdr hf, andThen_next, feedAll_cons,
    (frameAwaiting_awaits hfit s).execFeed hfit, frameAwaiting_lastByte hfit, andThen_next, feedAll_nil]

/-- Settles O35: `feedAll_frame`, whose frame read is the state that the statement writes out. -/
theorem frameFedReachesOutcome : Obligations.FrameFedReachesOutcome := by
  intro t s hfit hhdr hf s1
  have hs1 : frameRead t s = s1 := by rw [frameRead, ← hf]
  rw [feedAll_frame hfit hhdr hf, hs1]
  rfl

theorem frameOutcome_fsm (t : Telegram) (s : State) : (frameOutcome t s).fsm = s.fsm := by
  unfold frameOutcome
  split <;> simp

theorem frameOutcome_cntSyncDiscard (t : Telegram) (s : State) : (frameOutcome t s).cntSyncDiscard = s.cntSyncDiscard := by
  unfold frameOutcome
  split <;> simp

theorem frameOutcome_out (t : Telegram) (s : State) : (frameOutcome t s).out = s.out ++ [frameEvent t] := by
  unfold frameOutcome frameEvent
  by_cases h : t.dataCrcOk = true
  · rw [if_pos h, if_neg (not_not.2 (beq_iff_eq.1 h).symm), report_out]
  · have hne : crc8 (t.data ++ t.opt) ≠ t.dcrc := fun heq => h (beq_iff_eq.2 heq.symm)
    rw [if_neg h, if_pos hne]

/-- Settles O56: the frame of a telegram that passes both CRC checks reports the outcome of its data portion, here a reading. -/
theorem framedProfileRoundTrip : Obligations.FramedProfileRoundTrip := by
  intro pt data opt s p f hf hdata hopt hverdict
  have hfit : (frameTelegram pt data opt).lengthsFit = true :=
    Bool.and_eq_true_iff.2 ⟨decide_eq_true hdata, decide_eq_true hopt⟩
  have hfed := feedAll_frame hfit (frameTelegram_headerCrcOk pt data opt) hf
  rw [frameOutcome, if_pos (frameTelegram_dataCrcOk pt data opt), show (frameTelegram pt data opt).data = data from rfl,
    hverdict] at hfed
  exact ⟨_, hfed, rfl, rfl, rfl, rfl, rfl⟩

/-! ### A flipped bit -/

theorem flipBit_ne (j : Nat) (hj : j < 8) (b : Byte) : b ^^^ BitVec.twoPow 8 j ≠ b := by
  intro h
  have hbit := congrArg (fun x : Byte => x.getLsbD j) h
  simp [hj] at hbit

/-- A changed byte in a list that ends in its own CRC: the residue is not 0 any more. -/
theorem crc8_modify_residue {xs : List Byte} {k : Nat} {f : Byte → Byte} (hzero : crc8 xs = 0) (hk : k < xs.length)
    (hf : ∀ b, f b ≠ b) : crc8 (xs.modify k f) ≠ 0 := by
  rw [← hzero]
  exact crc8_modify_ne hk hf

theorem encodeFrame_eq (t : Telegram) : encodeFrame t =
    Config.sync :: t.dl.extractLsb' 8 8 :: t.dl.extractLsb' 0 8 :: t.ol :: t.pt :: t.hcrc :: (t.data ++ t.opt ++ [t.dcrc]) := by
  simp [encodeFrame, Telegram.header]

/-- Five header bytes of residue other than 0: a HeaderCrcError at the last of them. -/
theorem feedAll_badHeader {hdr : List Byte} (hlen : hdr.length = 5) (hcrc : crc8 hdr ≠ 0) {s : State} (hf : s.fsm = .seekingSync) :
    ∃ s' h0 h1 h2 h3 rx computed, feedAll (Config.sync :: hdr) s = .next s' ∧
      s'.out = s.out ++ [.hdrCrcErr h0 h1 h2 h3 rx computed] := by
  match hdr, hlen with
  | [h0, h1, h2, h3, rx], _ =>
    have hm : crc8 [h0, h1, h2, h3] ≠ rx := fun h => hcrc (crc8_snoc_eq_zero_iff.2 h)
    obtain ⟨fsm, hcnt, hb, n, hreplay, -, -⟩ := replay_frame h0 h1 h2 h3 rx (headerRejected h0 h1 h2 h3 rx s) rfl rfl
    exact ⟨_, h0, h1, h2, h3, rx, _, (feedAll_header_mismatch hm hf).trans hreplay, rfl⟩

/-- A payload of the right length for the header of `t`, of residue other than 0: one DataCrcError. -/
theorem feedAll_badPayload {t : Telegram} (hfit : t.lengthsFit = true) (hhdr : t.headerCrcOk = true) {payload : List Byte}
    (hlen : payload.length = t.data.length + t.opt.length + 1) (hcrc : crc8 payload ≠ 0) {s : State} (hf : s.fsm = .seekingSync) :
    ∃ s' t' computed,
      feedAll (Config.sync :: t.dl.extractLsb' 8 8 :: t.dl.extractLsb' 0 8 :: t.ol :: t.pt :: t.hcrc :: payload) s = .next s' ∧
      s'.out = s.out ++ [.dataCrcErr t' computed] := by
  obtain ⟨dcrc, hlast⟩ : ∃ b, payload.drop (t.data.length + t.opt.length) = [b] :=
    List.length_eq_one_iff.1 (by rw [List.length_drop, hlen]; omega)
  have hdrop : payload.drop ((t.dl.extractLsb' 8 8 ++ t.dl.extractLsb' 0 8).toNat + t.ol.toNat) = [dcrc] := by
    rw [append_extract, dl_toNat hfit, ol_toNat hfit, hlast]
  obtain ⟨hbytes, hfit', hhdr'⟩ := encodeFrame_of_body (beq_iff_eq.1 hhdr).symm hdrop
  rw [List.append_nil] at hbytes
  have hpayload := hcrc
  rw [← List.take_append_drop (t.dl.extractLsb' 8 8 ++ t.dl.extractLsb' 0 8).toNat payload,
    ← List.take_append_drop t.ol.toNat (payload.drop _), List.drop_drop, hdrop, ← List.append_assoc, ne_eq,
    crc8_snoc_eq_zero_iff] at hpayload
  rw [← hbytes]
  exact ⟨_, _, _, feedAll_frame hfit' hhdr' hf, (frameOutcome_out _ _).trans (congrArg (s.out ++ [·]) (if_pos hpayload))⟩

/-- Settles O39: header and payload each end in their own CRC, so a flipped bit of either leaves a residue, and the frame's lengths stay in place. -/
theorem singleBitFlipIsRejected : Obligations.SingleBitFlipIsRejected := by
  intro t s i j hfit hhdr hcrc hf h1 hi hj flipped
  have hflip := flipBit_ne j hj
  refine ⟨fun hle => ?_, fun hge => ?_⟩
  · obtain ⟨k, rfl⟩ := Nat.exists_eq_add_of_le' h1
    have hzero : crc8 [t.dl.extractLsb' 8 8, t.dl.extractLsb' 0 8, t.ol, t.pt, t.hcrc] = 0 :=
      crc8_snoc_eq_zero_iff.2 (beq_iff_eq.1 hhdr).symm
    have htake : flipped.take 6 = Config.sync ::
        [t.dl.extractLsb' 8 8, t.dl.extractLsb' 0 8, t.ol, t.pt, t.hcrc].modify k (fun b => b ^^^ BitVec.twoPow 8 j) := by
      simp only [flipped, List.take_modify, encodeFrame_eq]
      rfl
    rw [htake]
    exact feedAll_badHeader (by simp) (crc8_modify_residue hzero (Nat.lt_of_succ_le hle) hflip) hf
  · obtain ⟨k, rfl⟩ := Nat.exists_eq_add_of_le' hge
    have hzero : crc8 (t.data ++ t.opt ++ [t.dcrc]) = 0 := crc8_snoc_eq_zero_iff.2 (beq_iff_eq.1 hcrc).symm
    have hk : k < (t.data ++ t.opt ++ [t.dcrc]).length := by
      rw [encodeFrame_eq] at hi
      simp only [List.length_cons] at hi
      omega
    simp only [flipped, encodeFrame_eq, List.modify_succ_cons]
    exact feedAll_badPayload hfit hhdr (by simp [Nat.add_assoc]) (crc8_modify_residue hzero hk hflip) hf

end Sys2Proof.Machine

/-! The sliding-window law (41_frame_assembler.md R132): the scan's equations, case by case, and the block fed the same bytes. -/
namespace Sys2Proof.Machine

/-! ### The scan -/

theorem scan_stray {b : Byte} (hb : b ≠ 0x55) (n : Nat) (rest : List Byte) :
    scan (n + 1) (b :: rest) = ((scan n rest).1, (scan n rest).2 + 1) := if_pos hb

theorem scan_short {rest : List Byte} (h : rest.length ≤ 4) (n : Nat) : scan (n + 1) (Config.sync :: rest) = ([], 0) := by
  rcases rest with _ | ⟨x0, _ | ⟨x1, _ | ⟨x2, _ | ⟨x3, _ | ⟨x4, rest⟩⟩⟩⟩⟩
  iterate 5
    · rfl
  · simp only [List.length_cons] at h
    omega

theorem scan_mismatch {h0 h1 h2 h3 hc : Byte} (hm : crc8 [h0, h1, h2, h3] ≠ hc) (n : Nat) (body : List Byte) :
    let rest := h0 :: h1 :: h2 :: h3 :: hc :: body
    scan (n + 1) (Config.sync :: rest) =
      (.hdrCrcErr h0 h1 h2 h3 hc (crc8 [h0, h1, h2, h3]) :: (scan n rest).1, (scan n rest).2) := if_pos hm

/-- A matching header before too few bytes: the scan stops for want of bytes. -/
theorem scan_unfinished {h0 h1 h2 h3 hc : Byte} (hm : crc8 [h0, h1, h2, h3] = hc) {body : List Byte}
    (hend : body.drop ((h0 ++ h1).toNat + h2.toNat) = []) (n : Nat) :
    scan (n + 1) (Config.sync :: h0 :: h1 :: h2 :: h3 :: hc :: body) = ([], 0) := by
  rw [append_toNat] at hend
  refine (if_neg (not_not.2 rfl)).trans ((if_neg (not_not.2 hm)).trans ?_)
  simp only [hend]

/-- A matching header before enough bytes: a frame, and the scan goes on behind it. -/
theorem scan_frame {h0 h1 h2 h3 hc dcrc : Byte} (hm : crc8 [h0, h1, h2, h3] = hc) {body after : List Byte}
    (hend : body.drop ((h0 ++ h1).toNat + h2.toNat) = dcrc :: after) (n : Nat) :
    let data := body.take (h0 ++ h1).toNat
    let opt := (body.drop (h0 ++ h1).toNat).take h2.toNat
    let t : Telegram := { pt := h3, hcrc := hc, data := data, opt := opt, dcrc := dcrc }
    scan (n + 1) (Config.sync :: h0 :: h1 :: h2 :: h3 :: hc :: body) = (frameEvent t :: (scan n after).1, (scan n after).2) := by
  intro data opt t
  simp only [t, data, opt, append_toNat] at hend ⊢
  refine (if_neg (not_not.2 rfl)).trans ((if_neg (not_not.2 hm)).trans ?_)
  simp only [hend]

/-! ### The replay as a feed -/

theorem consumeList_mono {c d : Byte → State → Result} (h : ∀ b s s', c b s = .next s' → d b s = .next s') {bs : List Byte}
    {s s' : State} (hc : consumeList c bs s = .next s') : consumeList d bs s = .next s' := by
  induction bs generalizing s with
  | nil => exact hc
  | cons b bs ih =>
    obtain ⟨s₁, h₁, h₂⟩ := andThen_eq_next.1 hc
    exact andThen_eq_next.2 ⟨s₁, h b s s₁ h₁, ih h₂⟩

/-- A replayed byte that goes on does what FEED does (41_frame_assembler.md R130). -/
theorem execFeed_of_consumeReplayed {b : Byte} {s s' : State} (h : consumeReplayed b s = .next s') : execFeed b s = .next s' := by
  unfold consumeReplayed consumeWith at h
  unfold execFeed consumeWith
  split at h
  · exact h
  · obtain ⟨s₁, hstore, hrest⟩ := andThen_eq_next.1 h
    refine andThen_eq_next.2 ⟨s₁, hstore, ?_⟩
    split at hrest
    · cases hrest
    · next hne => exact (if_neg hne).trans hrest
  · cases h
  · exact h

/-- The replay of a rejected header is the feed of its five bytes, from SEEKING_SYNC. -/
theorem replay_eq_feedAll (h0 h1 h2 h3 hc : Byte) {s : State} (hf : s.fsm = .seekingSync) (hcnt : s.hcnt = 0) :
    consumeList consumeReplayed [h0, h1, h2, h3, hc] s = feedAll [h0, h1, h2, h3, hc] s := by
  obtain ⟨fsm, n, hb, k, hreplay, -, -⟩ := replay_frame h0 h1 h2 h3 hc s hf hcnt
  exact hreplay.trans (consumeList_mono (fun _ _ _ => execFeed_of_consumeReplayed) hreplay).symm

/-- A rejected header: the error, and then the five bytes and what follows as a stream of their own (41_frame_assembler.md R129). -/
theorem feedAll_rejected {h0 h1 h2 h3 hc : Byte} (hm : crc8 [h0, h1, h2, h3] ≠ hc) (body : List Byte) {s : State}
    (hf : s.fsm = .seekingSync) :
    feedAll (Config.sync :: h0 :: h1 :: h2 :: h3 :: hc :: body) s =
      feedAll (h0 :: h1 :: h2 :: h3 :: hc :: body) (headerRejected h0 h1 h2 h3 hc s) := by
  calc feedAll ([Config.sync, h0, h1, h2, h3, hc] ++ body) s
      = andThen (feedAll [h0, h1, h2, h3, hc] (headerRejected h0 h1 h2 h3 hc s)) (feedAll body) := by
        rw [feedAll_append, feedAll_header_mismatch hm hf, replay_eq_feedAll _ _ _ _ _ rfl rfl]
    _ = feedAll ([h0, h1, h2, h3, hc] ++ body) (headerRejected h0 h1 h2 h3 hc s) := (feedAll_append _ _ _).symm

/-! ### The stream -/

/-- The block takes the whole stream, with the events and the discards of a scan's answer. -/
def FollowsScan (bytes : List Byte) (s : State) (answer : List Event × Nat) : Prop :=
  ∃ s', feedAll bytes s = .next s' ∧ s'.out = s.out ++ answer.1 ∧
    s'.cntSyncDiscard = s.cntSyncDiscard + BitVec.ofNat 32 answer.2

/-- Bytes that the block takes without an event and without a discard. -/
theorem followsScan_silent {bytes : List Byte} {s s' : State} (h : feedAll bytes s = .next s') (hout : s'.out = s.out)
    (hcnt : s'.cntSyncDiscard = s.cntSyncDiscard) : FollowsScan bytes s ([], 0) :=
  ⟨s', h, by rw [hout, List.append_nil], hcnt.trans (BitVec.add_zero _).symm⟩

/-- An event, and what the rest of the stream puts out. -/
theorem FollowsScan.cons_event {bytes rest : List Byte} {s s₁ : State} {e : Event} {answer : List Event × Nat}
    (h : FollowsScan rest s₁ answer) (hfeed : feedAll bytes s = feedAll rest s₁) (hout : s₁.out = s.out ++ [e])
    (hcnt : s₁.cntSyncDiscard = s.cntSyncDiscard) : FollowsScan bytes s (e :: answer.1, answer.2) := by
  obtain ⟨s', hnext, hout', hcnt'⟩ := h
  exact ⟨s', hfeed.trans hnext, by rw [hout', hout, List.append_assoc]; rfl, by rw [hcnt', hcnt]⟩

/-- A stray byte, and what the rest of the stream puts out. -/
theorem FollowsScan.cons_stray {b : Byte} {rest : List Byte} {s : State} {answer : List Event × Nat} (hf : s.fsm = .seekingSync)
    (hb : b ≠ 0x55) (h : FollowsScan rest { s with cntSyncDiscard := s.cntSyncDiscard + 1 } answer) :
    FollowsScan (b :: rest) s (answer.1, answer.2 + 1) := by
  obtain ⟨s', hnext, hout, hcnt⟩ := h
  refine ⟨s', by rw [feedAll_cons, execFeed_stray hf hb, andThen_next, hnext], hout, ?_⟩
  rw [hcnt, Nat.add_comm answer.2 1, BitVec.ofNat_add, ← BitVec.add_assoc]
  rfl

/-- Header bytes before the fifth are stored without an event. -/
theorem feedAll_storesHeader {bs : List Byte} {s : State} (hf : s.fsm = .readingHeader) (h : s.hcnt.toNat + bs.length ≤ 4) :
    ∃ s', feedAll bs s = .next s' ∧ s'.out = s.out ∧ s'.cntSyncDiscard = s.cntSyncDiscard := by
  induction bs generalizing s with
  | nil => exact ⟨s, rfl, rfl, rfl⟩
  | cons b bs ih =>
    rw [List.length_cons] at h
    obtain ⟨hb, -, hfeed⟩ := execFeed_header (b := b) hf (by omega)
    have hnext : (s.hcnt + 1).toNat = s.hcnt.toNat + 1 := by bv_omega
    obtain ⟨s', hrest, hout, hcnt⟩ := ih (s := { s with hbuf := hb, hcnt := s.hcnt + 1 }) hf (by simp only [hnext]; omega)
    exact ⟨s', by rw [feedAll_cons, hfeed, andThen_next, hrest], hout, hcnt⟩

theorem followsScan_short {rest : List Byte} (h : rest.length ≤ 4) {s : State} (hf : s.fsm = .seekingSync) :
    FollowsScan (Config.sync :: rest) s ([], 0) := by
  obtain ⟨s', hfeed, hout, hcnt⟩ := feedAll_storesHeader (bs := rest) (s := { s with fsm := .readingHeader, hcnt := 0 }) rfl
    (by simpa using h)
  refine followsScan_silent ?_ hout hcnt
  rw [feedAll_cons, show Config.sync = 0x55 from rfl, execFeed_sync hf, andThen_next, hfeed]

/-- A matching header whose frame the stream does not finish. -/
theorem followsScan_unfinished {h0 h1 h2 h3 hc : Byte} (hm : crc8 [h0, h1, h2, h3] = hc) {body : List Byte}
    (hend : body.drop ((h0 ++ h1).toNat + h2.toNat) = []) {s : State} (hf : s.fsm = .seekingSync) :
    FollowsScan (Config.sync :: h0 :: h1 :: h2 :: h3 :: hc :: body) s ([], 0) := by
  have hshort := List.drop_eq_nil_iff.1 hend
  have htotal := totalLength_toNat (h0 ++ h1) h2
  have hmax : (totalLength (h0 ++ h1) h2).toNat ≤ Config.fbufBytes := by
    have hdl := (h0 ++ h1).isLt
    have hol := h2.isLt
    unfold Config.fbufBytes
    omega
  have hpayload := feedAll_payload (bs := body) (s := headerLatched h0 h1 h2 h3 hc s) rfl
    (by simp only [headerLatched, htotal]; simpa using Nat.lt_succ_of_le hshort) hmax
  have hfeed := (feedAll_append [Config.sync, h0, h1, h2, h3, hc] body s).trans
    ((congrArg (andThen · (feedAll body)) (feedAll_header hm hf)).trans hpayload)
  exact followsScan_silent hfeed rfl rfl

/-- A whole frame, and what the rest of the stream puts out. -/
theorem FollowsScan.cons_frame {t : Telegram} (hfit : t.lengthsFit = true) (hhdr : t.headerCrcOk = true) {rest : List Byte}
    {s : State} (hf : s.fsm = .seekingSync) {answer : List Event × Nat}
    (h : FollowsScan rest (frameOutcome t (frameRead t s)) answer) :
    FollowsScan (encodeFrame t ++ rest) s (frameEvent t :: answer.1, answer.2) :=
  h.cons_event (by rw [feedAll_append, feedAll_frame hfit hhdr hf, andThen_next]) (frameOutcome_out _ _)
    (frameOutcome_cntSyncDiscard _ _)

/-- The law for every stream within the positions that the scan may try, by induction on them. -/
theorem followsScan {n : Nat} {bytes : List Byte} (hn : bytes.length ≤ n) {s : State} (hf : s.fsm = .seekingSync) :
    FollowsScan bytes s (scan n bytes) := by
  induction n generalizing bytes s with
  | zero =>
    obtain rfl := List.length_eq_zero_iff.1 (Nat.le_zero.1 hn)
    exact followsScan_silent rfl rfl rfl
  | succ n ih =>
    rcases bytes with _ | ⟨b, rest⟩
    · exact followsScan_silent rfl rfl rfl
    rw [List.length_cons, Nat.add_le_add_iff_right] at hn
    by_cases hb : b = Config.sync
    · subst hb
      match rest with
      | h0 :: h1 :: h2 :: h3 :: hc :: body =>
        by_cases hm : crc8 [h0, h1, h2, h3] = hc
        · cases hend : body.drop ((h0 ++ h1).toNat + h2.toNat) with
          | nil =>
            rw [scan_unfinished hm hend]
            exact followsScan_unfinished hm hend hf
          | cons dcrc after =>
            obtain ⟨hbytes, hfit, hhdr⟩ := encodeFrame_of_body hm hend
            have hafter : after.length ≤ n := by
              have := congrArg List.length hend
              simp only [List.length_drop, List.length_cons] at this hn
              omega
            rw [scan_frame hm hend, ← hbytes]
            exact (ih hafter (frameOutcome_fsm _ _)).cons_frame hfit hhdr hf
        · rw [scan_mismatch hm]
          exact (ih hn rfl).cons_event (feedAll_rejected hm body hf) rfl rfl
      | [] | [_] | [_, _] | [_, _, _] | [_, _, _, _] =>
        rw [scan_short (by simp)]
        exact followsScan_short (by simp) hf
    · rw [scan_stray hb]
      refine FollowsScan.cons_stray hf hb ?_
      exact ih hn hf

/-- Settles O36: the law for as many positions as there are bytes. -/
theorem streamMatchesSlidingWindow : Obligations.StreamMatchesSlidingWindow := fun _ _ hf => followsScan le_rfl hf

end Sys2Proof.Machine

/-! A dispatch key placed for the next step (log 9, log 10): its telegram is well formed for the key's row, and the next step completes that telegram's frame. -/
namespace Sys2Proof
open Machine

/-! ### The telegram of a key -/

theorem key_bytes (k : BitVec 24) : k.extractLsb' 16 8 ++ k.extractLsb' 8 8 ++ k.extractLsb' 0 8 = k := by
  have hk := k.isLt
  apply BitVec.eq_of_toNat_eq
  simp only [toNat_append_eq_mul_add, BitVec.extractLsb'_toNat, Nat.shiftRight_eq_div_pow]
  omega

theorem rowMinLength_le_eighteen (r : Row) : rowMinLength r ≤ 18 := by cases r <;> decide

/-- A key with RORG 0xD2 selects a row that wants at least 9 bytes (30_encoding.md R90). -/
theorem rowMinLength_firstRow_D2 {x : Byte} (hx : x = 0xD2) (y z : Byte) : 9 ≤ rowMinLength (firstRow (x ++ y ++ z)) := by
  have h1 : x ≠ 0xF6 := by rw [hx]; decide
  have h2 : x ≠ 0xD5 := by rw [hx]; decide
  have h3 : x ≠ 0xA5 := by rw [hx]; decide
  have h4 : x ≠ 0xD4 := by rw [hx]; decide
  rw [firstRow_key, if_neg h1, if_neg h2, if_neg h3, if_neg h4, if_pos hx]
  split_ifs <;> decide

/-- The key's telegram selects the key's row: it is never too short for a D2 row. -/
theorem keyTelegram_selects (k : BitVec 24) : (keyTelegram k).selects (firstRow k) = true := by
  rw [selects_iff]
  refine (selectRow_cons _ _ _ _).trans ?_
  rw [key_bytes]
  refine if_neg fun ⟨hD2, hshort⟩ => ?_
  have hmin := rowMinLength_firstRow_D2 hD2 (k.extractLsb' 8 8) (k.extractLsb' 0 8)
  rw [key_bytes] at hmin
  have hlen : (List.replicate (rowMinLength (firstRow k) - 3) (0 : Byte)).length < 6 := hshort
  rw [List.length_replicate] at hlen
  omega

theorem keyTelegram_lengthsFit (k : BitVec 24) : (keyTelegram k).lengthsFit = true := by
  have hmin := rowMinLength_le_eighteen (firstRow k)
  have hdata : (keyTelegram k).data.length = 3 + (rowMinLength (firstRow k) - 3) :=
    List.length_append.trans (congrArg (3 + ·) List.length_replicate)
  have hopt : (keyTelegram k).opt.length = 0 := rfl
  rw [Telegram.lengthsFit, hdata, hopt]
  exact Bool.and_eq_true_iff.2 ⟨decide_eq_true (by omega), rfl⟩

theorem keyTelegram_wellFormed (k : BitVec 24) : (keyTelegram k).wellFormed (firstRow k) = true :=
  wellFormed_iff.2 ⟨keyTelegram_lengthsFit k, frameTelegram_headerCrcOk _ _ _, frameTelegram_dataCrcOk _ _ _, keyTelegram_selects k⟩

/-! ### The step that completes it -/

theorem place_encodeFrame {t : Telegram} (hfit : t.lengthsFit = true) (hhdr : t.headerCrcOk = true) (hcrc : t.dataCrcOk = true)
    (s : State) : place (.frame (encodeFrame t)) s = awaitLastByte t s := by
  have hframe := decodeFrameTelegram_encodeFrame hfit hhdr hcrc []
  rw [List.append_nil] at hframe
  rw [place, hframe]

/-- The step from a placed frame is the FEED of its data CRC byte, which it awaits. -/
theorem step_awaitLastByte {t : Telegram} (hfit : t.lengthsFit = true) (s : State) :
    ∃ s₀, step (awaitLastByte t s) = execFeed t.dcrc s₀ ∧ FrameAwaits t s₀ ∧
      s₀.cntValid = s.cntValid ∧ s₀.out = [] ∧ s₀.requests = s.requests := by
  refine ⟨_, (step_port rfl).trans (congrArg (exec · _) (decodePort_portWord 1 t.dcrc)), ?_, rfl, rfl, rfl⟩
  exact ⟨rfl, rfl, rfl, rfl, rfl, rfl, payload_length_toNat hfit, rfl, holdsBytes_memSetList s.fbuf _⟩

/-- A frame's verdict, when its data CRC is right and its data portion selects a row, is that row's instruction (42_validator.md R163). -/
theorem frameOutcome_eq_exec {t : Telegram} {r : Row} (hcrc : t.dataCrcOk = true) (hsel : t.selects r = true) (s : State) :
    .next (frameOutcome t s) = exec (r.instr t) { s with cntValid := s.cntValid + 1 } := by
  rw [frameOutcome, if_pos hcrc, ← dispatchTelegram_eq, dispatchTelegram_ok (selects_iff.1 hsel)]

/-- Settles O11: the placed frame's last byte counts the key's telegram as valid and dispatches it, which is the instruction of the key's row. -/
theorem placedKeyRunsItsRow : Obligations.PlacedKeyRunsItsRow := by
  intro s k _
  have hwf := keyTelegram_wellFormed (BitVec.ofNat 24 k)
  obtain ⟨hfit, hhdr, hcrc, hsel⟩ := wellFormed_iff.1 hwf
  have hplaced : s.withFetchWord 24 k = awaitLastByte (keyTelegram (BitVec.ofNat 24 k)) s := place_encodeFrame hfit hhdr hcrc s
  have hdecode : decodeTableWord 24 k = some ((firstRow (BitVec.ofNat 24 k)).instr (keyTelegram (BitVec.ofNat 24 k))) :=
    congrArg Except.toOption (decode_encodeFrame hwf)
  obtain ⟨s₀, hstep, hawaits, hvalid, hout, hreq⟩ := step_awaitLastByte hfit s
  rw [hplaced, hstep, hawaits.execFeed hfit]
  exact ⟨_, _, hdecode, (Row.instr_wellFormed _ _).trans hwf, frameOutcome_eq_exec hcrc hsel _, rfl,
    congrArg (· + 1) hvalid, hout, hreq⟩

end Sys2Proof
